-- ==== Sys2Proof/Word.lean ====
section
/-! DEFINITION. The word types of the core and the plainest arithmetic on them.
Pixel words and interface registers are 32 bits wide (spec/20_memory.md R64, spec/10_state.md section 2). -/

namespace Sys2Proof

/-- A 32-bit pixel word or interface register (R7, R64). -/
abbrev Word := BitVec 32

/-- An 8-bit byte of `IN`, or one channel of a pixel (R7, R60). -/
abbrev Byte := BitVec 8

/-- A prefix code, represented by its code lengths: entry `s` is the length of symbol `s`, 0 when it is absent
(spec/10_state.md R38; spec/00_scope.md R11). -/
abbrev Code := List Nat

/-- `LX(s)`, the number of extra bits of prefix symbol `s` (spec/30_encoding.md R89). -/
def extraBits (s : Nat) : Nat := if s < 4 then 0 else (s - 2) / 2

end Sys2Proof
end

