-- ==== Sys2Proof/Syntax.lean ====
section
/-! DEFINITION. The instructions of the core: one constructor per row of spec/opcode_table.json.
Bit fields are bit vectors of the field's width; symbols, sizes and indexes are naturals bounded by `Instr.wf`. -/

namespace Sys2Proof

/-- Which of the current codes HUFF_DECODE reads with (spec/42_huffman.md R199; spec/10_state.md R38). -/
inductive CodeSel where
  /-- the code-length code in force (R187) -/
  | codeLength
  /-- code `j` of group `gi` of the current image: 0 green-or-length, 1 red, 2 blue, 3 alpha, 4 distance -/
  | channel (gi j : Nat)
deriving DecidableEq, Repr

/-- The 57 instructions. -/
inductive Instr where
  -- the header (spec/30_encoding.md R83)
  | hdr (magic : BitVec 8) (w h : BitVec 14) (a : BitVec 1) (v : BitVec 3)
  -- transform records (R84)
  | xformEnd
  | xformPred (b : BitVec 3)
  | xformXcolor (b : BitVec 3)
  | xformSubgreen
  | xformCindex (n : BitVec 8)
  -- colour cache (R85) and meta-Huffman image (R86)
  | ccacheOff
  | ccacheOn (c : BitVec 4)
  | metaOff
  | metaOn (b : BitVec 3)
  -- prefix-code headers (R87)
  | hcodeS1b1 (x : BitVec 1)
  | hcodeS1b8 (x : BitVec 8)
  | hcodeS2b1 (x : BitVec 1) (y : BitVec 8)
  | hcodeS2b8 (x y : BitVec 8)
  | hcodeNormal (k : BitVec 4) (lens : List (BitVec 3))
  | maxsymOff
  | maxsymOn (n : BitVec 3) (m : Nat)
  -- code-length tokens (R88)
  | clLit (tok : BitVec 4)
  | clRep16 (e : BitVec 2)
  | clZero17 (e : BitVec 3)
  | clZero18 (e : BitVec 7)
  -- pixel-stream elements (R89)
  | pxLiteral (g r b a : BitVec 8)
  | pxBackref (g le d de : Nat)
  | pxCache (g : Nat)
  -- predictor modes, with the neighbours L, T, TR, TL (spec/44_transforms.md R267 to R283)
  | predM0 (l t tr tl : Word)
  | predM1 (l t tr tl : Word)
  | predM2 (l t tr tl : Word)
  | predM3 (l t tr tl : Word)
  | predM4 (l t tr tl : Word)
  | predM5 (l t tr tl : Word)
  | predM6 (l t tr tl : Word)
  | predM7 (l t tr tl : Word)
  | predM8 (l t tr tl : Word)
  | predM9 (l t tr tl : Word)
  | predM10 (l t tr tl : Word)
  | predM11 (l t tr tl : Word)
  | predM12 (l t tr tl : Word)
  | predM13 (l t tr tl : Word)
  | predM14 (l t tr tl : Word)
  | predM15 (l t tr tl : Word)
  -- the bit reader (spec/40_bit_reader.md)
  | brRead (n : Nat)
  | brPeek (n : Nat)
  | brFill
  | brEos
  | brAdvance (n : Nat)
  -- prefix-code decoding, group selection, colour cache (R199, R221, R233, R235)
  | huffDecode (c : CodeSel)
  | groupSelect (x y : Nat)
  | ccInsert (v : Word)
  | ccLookup (key : Nat)
  -- inverse transforms (R267, R286 to R289)
  | invPred (bits : Nat) (data : List Word)
  | invXcolor (bits : Nat) (data : List Word)
  | invSubgreen
  | paletteExpand (pal : List Word) (wb : Nat)
  | invCindex (w wb : Nat) (pal : List Word)
  -- host and sink (spec/45_sequencer.md R310, R311, R316)
  | hostStart
  | sinkAlloc (w h : Nat)
  | sinkSet (x y : Nat) (p : Word)
deriving DecidableEq, Repr

end Sys2Proof
end

