-- ==== Sys2Proof/WellFormed.lean ====
section
/-! DEFINITION. The operand ranges the spec gives each instruction. Ranges a field's own width already enforces
need no check; every other range is one clause here, with an ill-formed term for it in Tests/Slice0.lean. -/

namespace Sys2Proof

/-- The operand ranges of spec/30_encoding.md R87 to R90, R94, spec/40_bit_reader.md R120 to R124 and
spec/44_transforms.md R267, R286, R288, R289. -/
def Instr.wf : Instr → Bool
  | .hdr _ _ _ _ _ | .xformEnd | .xformPred _ | .xformXcolor _ | .xformSubgreen | .xformCindex _
  | .ccacheOff | .ccacheOn _ | .metaOff | .metaOn _
  | .hcodeS1b1 _ | .hcodeS1b8 _ | .hcodeS2b1 _ _ | .hcodeS2b8 _ _ => true
  -- R87: `k + 4` lengths
  | .hcodeNormal k lens => lens.length == k.toNat + 4
  | .maxsymOff => true
  -- R90: `m` has 2 + 2n bits
  | .maxsymOn n m => m < 2 ^ (2 + 2 * n.toNat)
  | .clLit _ | .clRep16 _ | .clZero17 _ | .clZero18 _ => true
  | .pxLiteral _ _ _ _ => true
  -- R89: the length symbol, its extra bits, the distance symbol, its extra bits
  | .pxBackref g le d de =>
      256 ≤ g && g < 280 && le < 2 ^ extraBits (g - 256) && d < 40 && de < 2 ^ extraBits d
  | .pxCache g => 280 ≤ g && g < 2328
  | .predM0 _ _ _ _ | .predM1 _ _ _ _ | .predM2 _ _ _ _ | .predM3 _ _ _ _ | .predM4 _ _ _ _ | .predM5 _ _ _ _
  | .predM6 _ _ _ _ | .predM7 _ _ _ _ | .predM8 _ _ _ _ | .predM9 _ _ _ _ | .predM10 _ _ _ _
  | .predM11 _ _ _ _ | .predM12 _ _ _ _ | .predM13 _ _ _ _ | .predM14 _ _ _ _ | .predM15 _ _ _ _ => true
  -- R120, R121, R124
  | .brRead n => n ≤ 24
  | .brPeek n => n ≤ 24
  | .brFill | .brEos => true
  | .brAdvance n => n ≤ 15
  -- R38: five codes a group, at most 65536 groups
  | .huffDecode .codeLength => true
  | .huffDecode (.channel gi j) => gi < 65536 && j < 5
  -- R90: at most 16384 columns and rows
  | .groupSelect x y => x < 16384 && y < 16384
  | .ccInsert _ => true
  -- R36: at most 2^11 slots
  | .ccLookup key => key < 2048
  -- R90: tile exponents 2..9; a tile image has a pixel
  | .invPred bits data => 2 ≤ bits && bits ≤ 9 && !data.isEmpty
  | .invXcolor bits data => 2 ≤ bits && bits ≤ 9 && !data.isEmpty
  | .invSubgreen => true
  -- R149, R288: WB 0..3, at least one entry and no more than the table holds
  | .paletteExpand pal wb => wb ≤ 3 && !pal.isEmpty && pal.length ≤ 2 ^ (8 >>> wb)
  | .invCindex w wb pal => 1 ≤ w && w ≤ 16384 && wb ≤ 3 && pal.length == 2 ^ (8 >>> wb)
  | .hostStart => true
  -- R311, R316
  | .sinkAlloc w h => 1 ≤ w && w ≤ 16384 && 1 ≤ h && h ≤ 16384
  | .sinkSet x y _ => x < 16384 && y < 16384

end Sys2Proof
end

