-- ==== Sys2Proof/Decode.lean ====
section
/-! DEFINITION. The decoder, total on any bits, and after it the encoder.
No element has an opcode field (spec/30_encoding.md R80): the grammar position, `Ctx`, says which elements may come
next (R82), and the decoder reads the upcoming bits, a `Window`, in that context. -/

namespace Sys2Proof

/-- The upcoming stream bits: `rd k` is the bit `k` places after the cursor. A window has no end, because bits past
the end of the input read as 0 (spec/20_memory.md R61). -/
abbrev Window := Nat → Bool

/-- `n` bits from offset `off`, the first bit consumed in bit 0 (spec/40_bit_reader.md R120, R126). -/
def bitsAt (rd : Window) (off : Nat) : Nat → Nat
  | 0 => 0
  | n + 1 => (rd off).toNat + 2 * bitsAt rd (off + 1) n

/-- The same value as an `n`-bit field. -/
def fieldAt (rd : Window) (off n : Nat) : BitVec n := BitVec.ofNat n (bitsAt rd off n)

/-- The window over a list of bits, zero bits after its end. -/
def windowOfBits (bs : List Bool) : Window := fun k => bs.getD k false

/-- The window over bytes, bit 0 of the first byte first (spec/20_memory.md R61). -/
def windowOfBytes (bytes : List Byte) : Window := fun k => (bytes.getD (k / 8) 0).getLsbD (k % 8)

/-! ## Prefix codes (spec/42_huffman.md section 2) -/

/-- The number of symbols present in a code. -/
def codeSymbols (L : Code) : Nat := L.countP (· != 0)

/-- How many symbols have length `l` (R197's `count[l]`). -/
def lenCount (L : Code) (l : Nat) : Nat := L.count l

/-- `Σ 2^(15 − L[s])` over the symbols present (R196). -/
def kraftSum (L : Code) : Nat := (L.map fun l => if l = 0 then 0 else 2 ^ (15 - l)).sum

/-- BuildCode's checks (R194 to R196): no length over 15, and either one symbol alone or a full tree. -/
def validCode (L : Code) : Bool :=
  L.all (· ≤ 15) && (codeSymbols L == 1 || (2 ≤ codeSymbols L && kraftSum L == 2 ^ 15))

/-- The symbol of a code that has exactly one (R195). -/
def singleSymbol? (L : Code) : Option Nat :=
  if codeSymbols L = 1 then L.findIdx? (· != 0) else none

/-- R197's `next[l]` before any symbol: the first codeword of length `l`. -/
def firstCode (L : Code) : Nat → Nat
  | 0 => 0
  | 1 => 0
  | l + 2 => (firstCode L (l + 1) + lenCount L (l + 1)) * 2

/-- The symbol whose codeword is `c` among the symbols of length `l`, when `next` is the codeword of the first of
them at or after index `i` (R197: consecutive codewords in symbol order). -/
def findSymbol (l c : Nat) : Code → (next i : Nat) → Option Nat
  | [], _, _ => none
  | x :: xs, next, i =>
    if x = l then
      if next = c then some i else findSymbol l c xs (next + 1) (i + 1)
    else findSymbol l c xs next (i + 1)

/-- R199's loop from length `l` on: `c` holds the bits read so far, `first` the first codeword of length `l`. -/
def walkCode (L : Code) (rd : Window) (off : Nat) : (fuel l first c : Nat) → Option (Nat × Nat)
  | 0, _, _, _ => none
  | fuel + 1, l, first, c =>
    let c' := 2 * c + (rd (off + (l - 1))).toNat
    match findSymbol l c' L first 0 with
    | some s => some (s, l)
    | none => walkCode L rd off fuel (l + 1) ((first + lenCount L l) * 2) c'

/-- `Decode(code)` (R199): the symbol and the number of bits it takes. `none` only when no codeword fits, which a
valid code rules out (R198). -/
def decodeSymbol (L : Code) (rd : Window) (off : Nat) : Option (Nat × Nat) :=
  match singleSymbol? L with
  | some s => some (s, 0)
  | none => walkCode L rd off 15 1 0 0

/-- The number of bits symbol `s` takes: none in a one-symbol code (R195), else its length. -/
def symbolBits (L : Code) (s : Nat) : Nat := if codeSymbols L = 1 then 0 else L.getD s 0

/-- The canonical codeword of symbol `s` (R197): the first codeword of its length, plus the number of earlier
symbols of that length. -/
def codeword (L : Code) (s : Nat) : Nat :=
  firstCode L (L.getD s 0) + lenCount (L.take s) (L.getD s 0)

/-! ## The decoder -/

/-- What the grammar admits next (spec/30_encoding.md R82). -/
inductive Ctx where
  /-- HDR -/
  | header
  /-- XFORM_* -/
  | xform
  /-- CCACHE_* -/
  | ccache
  /-- META_*, level 0 only -/
  | metaBit
  /-- HCODE_* -/
  | hcode
  /-- MAXSYM_* -/
  | maxsym
  /-- CL_*, read with the code-length code -/
  | token (cl : Code)
  /-- PX_*, read with the five codes of the group in force -/
  | pixel (green red blue alpha dist : Code)
deriving DecidableEq, Repr

/-- Why the decoder gives no instruction. -/
inductive Reject where
  /-- no codeword of the code in force fits the bits (not reached with a valid code, R198) -/
  | noCodeword
  /-- a CTRL write without START has no effect (spec/10_state.md R21) -/
  | notStart
deriving DecidableEq, Repr

/-- R84: the presence bit, the 2-bit type, the type's fields. -/
def decodeXform (rd : Window) : Instr :=
  if rd 0 then
    match bitsAt rd 1 2 with
    | 0 => .xformPred (fieldAt rd 3 3)
    | 1 => .xformXcolor (fieldAt rd 3 3)
    | 2 => .xformSubgreen
    | _ => .xformCindex (fieldAt rd 3 8)
  else .xformEnd

/-- R87: the form bit, then the count and width bits, or the number of code-length lengths and the lengths. -/
def decodeHcode (rd : Window) : Instr :=
  if rd 0 then
    match rd 1, rd 2 with
    | false, false => .hcodeS1b1 (fieldAt rd 3 1)
    | false, true => .hcodeS1b8 (fieldAt rd 3 8)
    | true, false => .hcodeS2b1 (fieldAt rd 3 1) (fieldAt rd 4 8)
    | true, true => .hcodeS2b8 (fieldAt rd 3 8) (fieldAt rd 11 8)
  else
    .hcodeNormal (fieldAt rd 1 4)
      ((List.range (bitsAt rd 1 4 + 4)).map fun i => fieldAt rd (5 + 3 * i) 3)

/-- R87: MAXSYM's width selector and its `2 + 2n` bits. -/
def decodeMaxsym (rd : Window) : Instr :=
  if rd 0 then .maxsymOn (fieldAt rd 1 3) (bitsAt rd 4 (2 + 2 * bitsAt rd 1 3)) else .maxsymOff

/-- R88: a token and its extra bits. -/
def decodeToken (cl : Code) (rd : Window) : Except Reject Instr :=
  match decodeSymbol cl rd 0 with
  | none => .error .noCodeword
  | some (tok, n) =>
    if tok < 16 then .ok (.clLit (BitVec.ofNat 4 tok))
    else if tok = 16 then .ok (.clRep16 (fieldAt rd n 2))
    else if tok = 17 then .ok (.clZero17 (fieldAt rd n 3))
    else .ok (.clZero18 (fieldAt rd n 7))

/-- R89, PX_LITERAL: after green, the symbols of red, blue and alpha. -/
def decodeLiteral (red blue alpha : Code) (rd : Window) (g n : Nat) : Except Reject Instr :=
  match decodeSymbol red rd n with
  | none => .error .noCodeword
  | some (r, nr) =>
    match decodeSymbol blue rd (n + nr) with
    | none => .error .noCodeword
    | some (b, nb) =>
      match decodeSymbol alpha rd (n + nr + nb) with
      | none => .error .noCodeword
      | some (a, _) =>
        .ok (.pxLiteral (BitVec.ofNat 8 g) (BitVec.ofNat 8 r) (BitVec.ofNat 8 b) (BitVec.ofNat 8 a))

/-- R89, PX_BACKREF: after the length symbol, its extra bits, the distance symbol and its extra bits. -/
def decodeBackref (dist : Code) (rd : Window) (g n : Nat) : Except Reject Instr :=
  let lx := extraBits (g - 256)
  match decodeSymbol dist rd (n + lx) with
  | none => .error .noCodeword
  | some (d, nd) => .ok (.pxBackref g (bitsAt rd n lx) d (bitsAt rd (n + lx + nd) (extraBits d)))

/-- R89: the range of the first symbol selects the element. -/
def decodePixel (green red blue alpha dist : Code) (rd : Window) : Except Reject Instr :=
  match decodeSymbol green rd 0 with
  | none => .error .noCodeword
  | some (g, n) =>
    if g < 256 then decodeLiteral red blue alpha rd g n
    else if g < 280 then decodeBackref dist rd g n
    else .ok (.pxCache g)

/-- The element the stream holds at the cursor, in context `c` (spec/30_encoding.md R82 to R89). Total: every window
decodes, but for bits no codeword fits. -/
def decode (c : Ctx) (rd : Window) : Except Reject Instr :=
  match c with
  | .header => .ok (.hdr (fieldAt rd 0 8) (fieldAt rd 8 14) (fieldAt rd 22 14) (fieldAt rd 36 1) (fieldAt rd 37 3))
  | .xform => .ok (decodeXform rd)
  | .ccache => .ok (if rd 0 then .ccacheOn (fieldAt rd 1 4) else .ccacheOff)
  | .metaBit => .ok (if rd 0 then .metaOn (fieldAt rd 1 3) else .metaOff)
  | .hcode => .ok (decodeHcode rd)
  | .maxsym => .ok (decodeMaxsym rd)
  | .token cl => decodeToken cl rd
  | .pixel green red blue alpha dist => decodePixel green red blue alpha dist rd

/-- `decode` on bytes, the first byte first. -/
def decodeBytes (c : Ctx) (bytes : List Byte) : Except Reject Instr := decode c (windowOfBytes bytes)

/-- A write of CTRL: START is bit 0 (spec/10_state.md R21; spec/45_sequencer.md R310). -/
def decodeCtrl (v : Word) : Except Reject Instr :=
  if v.getLsbD 0 then .ok .hostStart else .error .notStart

/-- The PRED_MODE instruction in a predictor sub-image pixel: bits 11:8 (spec/44_transforms.md R268), with the
neighbours it works on. The other 28 bits are ignored. -/
def decodePred (p : Word) (l t tr tl : Word) : Instr :=
  match (p.extractLsb' 8 4).toNat with
  | 0 => .predM0 l t tr tl
  | 1 => .predM1 l t tr tl
  | 2 => .predM2 l t tr tl
  | 3 => .predM3 l t tr tl
  | 4 => .predM4 l t tr tl
  | 5 => .predM5 l t tr tl
  | 6 => .predM6 l t tr tl
  | 7 => .predM7 l t tr tl
  | 8 => .predM8 l t tr tl
  | 9 => .predM9 l t tr tl
  | 10 => .predM10 l t tr tl
  | 11 => .predM11 l t tr tl
  | 12 => .predM12 l t tr tl
  | 13 => .predM13 l t tr tl
  | 14 => .predM14 l t tr tl
  | _ => .predM15 l t tr tl

/-! ## Words of the opcode table -/

/-- How a table word is read (log 11): it alone does not say which element it is (R80), so its size picks a context.
A token value 16..18 is read as that token; another word of at most 8 bits in the transform context; at most 16 bits
as a predictor sub-image pixel; at most 32 bits as BR_READ's operand; a longer word as the header. -/
inductive TableRead where
  | stream (c : Ctx)
  | predMode
  | bitRead
deriving DecidableEq, Repr

/-- The code-length code whose only token is `tok`: that token takes no bits (spec/42_huffman.md R187). -/
def onlyToken (tok : Nat) : Code := List.replicate tok 0 ++ 1 :: List.replicate (18 - tok) 0

/-- See `TableRead`. -/
def tableRead (nbits w : Nat) : TableRead :=
  if nbits ≤ 8 then
    if 16 ≤ w ∧ w ≤ 18 then .stream (.token (onlyToken w)) else .stream .xform
  else if nbits ≤ 16 then .predMode
  else if nbits ≤ 32 then .bitRead
  else .stream .header

/-- The stream bits a table word stands for: a token's bits are the symbol's, none here, and its extra bits, zeros;
any other word is its own bits, bit 0 first, zeros above. -/
def tableBits (nbits w : Nat) : Nat :=
  match tableRead nbits w with
  | .stream (.token _) => 0
  | _ => w % 2 ^ nbits

/-- The instruction the decoder reads from a table word (log 11). -/
def decodeTableWord (nbits w : Nat) : Option Instr :=
  match tableRead nbits w with
  | .stream c => (decode c fun k => (tableBits nbits w).testBit k).toOption
  | .predMode => some (decodePred (BitVec.ofNat 32 (tableBits nbits w)) 0 0 0 0)
  | .bitRead => some (.brRead (tableBits nbits w))

/-! ## The encoder -/

/-- The low `n` bits of `v`, bit 0 first (spec/30_encoding.md R90). -/
def bitsOf (n v : Nat) : List Bool := (List.range n).map v.testBit

/-- The bits of symbol `s`: its codeword, most significant bit first (R91; spec/42_huffman.md R198). -/
def encodeSymbol (L : Code) (s : Nat) : List Bool :=
  (bitsOf (symbolBits L s) (codeword L s)).reverse

/-- The stream bits of an element in a context, written from the encoding strings of spec/30_encoding.md R83 to R89.
An instruction the context does not admit, and one with no stream bits, has none. -/
def encode (c : Ctx) (i : Instr) : List Bool :=
  match c, i with
  | .header, .hdr magic w h a v =>
      bitsOf 8 magic.toNat ++ bitsOf 14 w.toNat ++ bitsOf 14 h.toNat ++ bitsOf 1 a.toNat ++ bitsOf 3 v.toNat
  | .xform, .xformEnd => [false]
  | .xform, .xformPred b => [true, false, false] ++ bitsOf 3 b.toNat
  | .xform, .xformXcolor b => [true, true, false] ++ bitsOf 3 b.toNat
  | .xform, .xformSubgreen => [true, false, true]
  | .xform, .xformCindex n => [true, true, true] ++ bitsOf 8 n.toNat
  | .ccache, .ccacheOff => [false]
  | .ccache, .ccacheOn k => [true] ++ bitsOf 4 k.toNat
  | .metaBit, .metaOff => [false]
  | .metaBit, .metaOn b => [true] ++ bitsOf 3 b.toNat
  | .hcode, .hcodeS1b1 x => [true, false, false] ++ bitsOf 1 x.toNat
  | .hcode, .hcodeS1b8 x => [true, false, true] ++ bitsOf 8 x.toNat
  | .hcode, .hcodeS2b1 x y => [true, true, false] ++ bitsOf 1 x.toNat ++ bitsOf 8 y.toNat
  | .hcode, .hcodeS2b8 x y => [true, true, true] ++ bitsOf 8 x.toNat ++ bitsOf 8 y.toNat
  | .hcode, .hcodeNormal k lens => [false] ++ bitsOf 4 k.toNat ++ lens.flatMap fun l => bitsOf 3 l.toNat
  | .maxsym, .maxsymOff => [false]
  | .maxsym, .maxsymOn n m => [true] ++ bitsOf 3 n.toNat ++ bitsOf (2 + 2 * n.toNat) m
  | .token cl, .clLit tok => encodeSymbol cl tok.toNat
  | .token cl, .clRep16 e => encodeSymbol cl 16 ++ bitsOf 2 e.toNat
  | .token cl, .clZero17 e => encodeSymbol cl 17 ++ bitsOf 3 e.toNat
  | .token cl, .clZero18 e => encodeSymbol cl 18 ++ bitsOf 7 e.toNat
  | .pixel green red blue alpha _, .pxLiteral g r b a =>
      encodeSymbol green g.toNat ++ encodeSymbol red r.toNat ++ encodeSymbol blue b.toNat ++ encodeSymbol alpha a.toNat
  | .pixel green _ _ _ dist, .pxBackref g le d de =>
      encodeSymbol green g ++ bitsOf (extraBits (g - 256)) le ++ encodeSymbol dist d ++ bitsOf (extraBits d) de
  | .pixel green _ _ _ _, .pxCache g => encodeSymbol green g
  | _, _ => []

/-- A code has symbol `s`. -/
def hasSymbol (L : Code) (s : Nat) : Bool := L.getD s 0 != 0

/-- The context admits this element: it is one of the grammar's alternatives there (R82) and each of its prefix-coded
symbols is one of its code's, the codes being valid and the code-length code having the 19 tokens (R94). -/
def Ctx.admits (c : Ctx) (i : Instr) : Bool :=
  match c, i with
  | .header, .hdr _ _ _ _ _ => true
  | .xform, .xformEnd | .xform, .xformPred _ | .xform, .xformXcolor _ | .xform, .xformSubgreen
  | .xform, .xformCindex _ => true
  | .ccache, .ccacheOff | .ccache, .ccacheOn _ => true
  | .metaBit, .metaOff | .metaBit, .metaOn _ => true
  | .hcode, .hcodeS1b1 _ | .hcode, .hcodeS1b8 _ | .hcode, .hcodeS2b1 _ _ | .hcode, .hcodeS2b8 _ _
  | .hcode, .hcodeNormal _ _ => true
  | .maxsym, .maxsymOff | .maxsym, .maxsymOn _ _ => true
  | .token cl, .clLit tok => validCode cl && cl.length == 19 && hasSymbol cl tok.toNat
  | .token cl, .clRep16 _ => validCode cl && cl.length == 19 && hasSymbol cl 16
  | .token cl, .clZero17 _ => validCode cl && cl.length == 19 && hasSymbol cl 17
  | .token cl, .clZero18 _ => validCode cl && cl.length == 19 && hasSymbol cl 18
  | .pixel green red blue alpha _, .pxLiteral g r b a =>
      validCode green && validCode red && validCode blue && validCode alpha &&
      hasSymbol green g.toNat && hasSymbol red r.toNat && hasSymbol blue b.toNat && hasSymbol alpha a.toNat
  | .pixel green _ _ _ dist, .pxBackref g _ d _ => validCode green && validCode dist && hasSymbol green g && hasSymbol dist d
  | .pixel green _ _ _ _, .pxCache g => validCode green && hasSymbol green g
  | _, _ => false

end Sys2Proof
end

