-- ==== Sys2Proof/Config.lean ====
section
/-! DEFINITION. What an implementation fixes (the two OPEN parameters of spec/00_scope.md R6) and the free values:
constants with no body, so that nothing can be proved of what they are. -/

namespace Sys2Proof

/-- The OPEN parameters of the core (spec/00_scope.md R6, decision D14): arguments of the model.
State carries them (log 4), so a statement about every state holds for every value of them. -/
structure Params where
  /-- `LEN_MAX`, in bytes; the spec asks for at least 5 -/
  lenMax : Nat
  /-- `PIX_MAX`, in pixels of one image buffer -/
  pixMax : Nat
deriving DecidableEq, Repr

/-- Bit `i` of the stream a job reads once the host has written `IN` while BUSY for the `k`-th time
(spec/20_memory.md R75; 93_implementation_defined.md U2: any value). FREE VALUE, log 7. -/
opaque Config.freeStreamBit : Nat → Nat → Bool

/-- What the host reads at column `x`, row `y` of the sink, as an ARGB word, where the spec leaves the sink's
contents open (93_implementation_defined.md U3, U4, U18, U19: any value). The first two arguments are the free-value
counter and the number of sink calls. FREE VALUE, log 8. -/
opaque Config.freeSinkPixel : Nat → Nat → Nat → Nat → Word

/-- Decoder register number `j` from the end of a job, the `k`-th use of the free-value counter, to the place of the
next job that writes it (spec/60_exceptions.md R348; spec/70_reset_and_hazards.md R371: it does not survive).
FREE VALUE, log 14. -/
opaque Config.freeRegister : Nat → Nat → Word

/-- A pixel or a slot at an index that holds no value (spec/10_state.md R39: no rule reads it).
FREE VALUE, log 13; no run of a job reads one. -/
opaque Config.freePixel : Nat → Word

end Sys2Proof
end

