-- ==== Sys2Proof/Machine/State.lean ====
section
/-! DEFINITION. The state of the core as plain data, the reasons a step can stop, and the state after reset.
INVENTORY.md lists each field with its rule and its reset value. -/

namespace Sys2Proof.Machine

/-- Why the machine is stuck. Neither is reached by a run from reset. -/
inductive Fault where
  /-- Raised by the sequencer when no codeword of the code in force fits the bits (spec/42_huffman.md R199, "not
  reached"; log 20). Safe: valid codes always fit (R198). -/
  | noCodeword
  /-- Raised by the sequencer when the grammar position needs an image context, a group or a code that does not exist
  (log 20). Safe: the rules create each before they use it. -/
  | noContext
deriving DecidableEq, Repr

/-- Why the model gives no next state. -/
inductive Refusal where
  /-- Raised by exec's arm for an instruction that has no meaning yet. Safe. -/
  | notModelled (mnemonic : String)
  /-- Raised by HOST_START when `LEN > LEN_MAX` (spec/45_sequencer.md R310, R320: the model refuses the job). Safe. -/
  | inputTooLong
  /-- Raised where an image context is created with more than `PIX_MAX` pixels (spec/45_sequencer.md R320; log 5).
  Safe. -/
  | imageTooLarge
  /-- Raised by a stream element executed where the grammar does not put it (spec/30_encoding.md R82: "The grammar
  alone decides which element the core reads next"; log 10). No step does so. Safe. -/
  | outOfGrammar
  /-- Raised by an internal operation whose operand names nothing in the state: no image context, no such group, no
  such code, no codeword (log 21). No rule issues one. Safe. -/
  | operandAbsent
deriving DecidableEq, Repr

/-- `PHASE` (spec/10_state.md R30). -/
inductive Phase where
  | idle
  | header
  | xform
  | ccache
  | metaCfg
  | codes
  | pixels
  | finish
  | done
  | error
deriving DecidableEq, Repr

/-- `HDR` (spec/10_state.md R31). -/
structure Hdr where
  w : Nat
  h : Nat
  alpha : BitVec 1
  ver : BitVec 3
deriving DecidableEq, Repr

/-- The four transform types, in the order of their numbers 0..3 (spec/10_state.md R32). -/
inductive XKind where
  | predictor
  | crossColour
  | subtractGreen
  | colourIndexing
deriving DecidableEq, Repr

/-- A transform record (spec/10_state.md R33): `bits` is the tile exponent or the width exponent `WB` (0 for
subtract-green, which has none), `data` the sub-image or the expanded palette. -/
structure Xform where
  kind : XKind
  xsize : Nat
  bits : Nat
  data : List Word
deriving DecidableEq, Repr

/-- The colour cache of an image (spec/10_state.md R36): `bits` is 0 when it is disabled, and `arr` then has no slot. -/
structure CCache where
  bits : Nat
  arr : List Word
deriving DecidableEq, Repr

/-- The meta-Huffman state of an image (spec/10_state.md R37): `bits` is 0 when there is no meta image. -/
structure MetaMap where
  bits : Nat
  xs : Nat
  idx : List Nat
deriving DecidableEq, Repr

/-- An image context (spec/10_state.md R35 to R39). `codes` holds the prefix codes read so far, five a group, group 0
first; `pix` the pixels written so far, so that `IMG.POS` is its length. -/
structure Img where
  xs : Nat
  ys : Nat
  level0 : Bool
  cc : CCache
  mt : MetaMap
  ngroups : Nat
  codes : List Code
  pix : List Word
deriving DecidableEq, Repr

/-- What a nested image is decoded for (spec/41_stream_structure.md R145, R146, R148, R155). -/
inductive SubUse where
  | predictor (bits : Nat)
  | crossColour (bits : Nat)
  | palette (wb : Nat)
  | groupMap (mb : Nat)
deriving DecidableEq, Repr

/-- The nested image context (spec/41_stream_structure.md R151, R159). -/
structure Nested where
  use : SubUse
  img : Img
deriving DecidableEq, Repr

/-- The grammar position (spec/30_encoding.md R82), of the nested image when there is one, else of level 0. -/
inductive Stage where
  /-- no job runs -/
  | idle
  /-- HDR is next -/
  | header
  /-- XFORM_* is next -/
  | xform
  /-- CCACHE_* is next -/
  | ccache
  /-- META_* is next -/
  | metaBit
  /-- HCODE_* is next -/
  | hcode
  /-- MAXSYM_* is next; the code-length code is built (spec/42_huffman.md R187) -/
  | maxsym (cl : Code)
  /-- CL_* is next: the code-length code, the lengths written so far, the tokens left, the previous non-zero length
  (R189) -/
  | token (cl : Code) (lens : List Nat) (left prev : Nat)
  /-- PX_* is next, or the image is complete (spec/43_pixel_stream.md R220) -/
  | pixel
  /-- PALETTE_EXPAND has been issued for a complete palette (spec/41_stream_structure.md R148) -/
  | palette
  /-- the final batch and the end of the job (spec/45_sequencer.md R314) -/
  | finish
deriving DecidableEq, Repr

/-- The batch of rows in emission (spec/45_sequencer.md R313). -/
inductive Emit where
  | off
  /-- the inverse transforms of rows `y0 .. y1 − 1` have been issued -/
  | inverting (y0 y1 : Nat)
  /-- the SINK_SETs of the rows up to `y1 − 1` have been issued -/
  | sinking (y1 : Nat)
deriving DecidableEq, Repr

/-- The image InvertAll threads through the inverses (spec/44_transforms.md R260). -/
structure WorkImg where
  w : Nat
  h : Nat
  pix : List Word
deriving DecidableEq, Repr

/-- One setPixelRgba call (spec/45_sequencer.md R316). -/
structure SinkPixel where
  x : Nat
  y : Nat
  r : Byte
  g : Byte
  b : Byte
  a : Byte
deriving DecidableEq, Repr

/-- The pixel sink (spec/45_sequencer.md R311, R316; 92_eei_decisions.md D33): the size and channels of the last
`allocate`, the `setPixelRgba` calls since, oldest first, whether they are a finished job's, and how many calls the sink
has received (log 8). -/
structure Sink where
  size : Option (Nat × Nat × Nat)
  sets : List SinkPixel
  whole : Bool
  calls : Nat
deriving DecidableEq, Repr

/-- The interface registers 0 to 5 (spec/10_state.md section 2). -/
inductive Reg where
  | ctrl
  | inLen
  | expect
  | status
  | info
  | bitpos
deriving DecidableEq, Repr

/-- What the host may do between two moves of the core (log 1). -/
inductive HostAct where
  /-- nothing: the core makes its move -/
  | pass
  /-- a write of an interface register (spec/10_state.md R21 to R27) -/
  | write (r : Reg) (v : Word)
  /-- a write of a byte of `IN` (spec/20_memory.md R60, R75) -/
  | writeIn (a : BitVec 32) (b : Byte)
  /-- the hardware reset (spec/70_reset_and_hazards.md R370) -/
  | reset
deriving DecidableEq, Repr

/-- What an internal operation returned (log 9). -/
inductive Result where
  | nothing
  /-- bits, a flag, a symbol or a group index -/
  | value (v : Nat)
  /-- a pixel word -/
  | pixel (p : Word)
  /-- a palette -/
  | pixels (ps : List Word)
deriving DecidableEq, Repr

/-- A byte memory: cells in strictly rising order of address, none holding what an unlisted address reads as. -/
abbrev Memory := List Host.Cell

/-- The state of the core, the host's accesses still to come, and the sink. -/
structure State where
  /-- `LEN_MAX` and `PIX_MAX` (R6; log 4) -/
  params : Params
  /-- the host's accesses still to come, the next first (log 1) -/
  host : List HostAct
  /-- `IN` (R60) -/
  inMem : Memory
  /-- the free bit stream in force after a write of `IN` while BUSY (R75; log 7) -/
  inFree : Option Nat
  /-- the next free value (log 7) -/
  freeCtr : Nat
  /-- `IN_LEN` (R22) -/
  inLen : Word
  /-- `EXPECT` (R23) -/
  expect : Word
  /-- `STATUS` (R24) -/
  status : Word
  /-- `INFO` (R25) -/
  info : Word
  /-- `BR.POS` (R28) -/
  pos : Nat
  /-- `PHASE` (R30) -/
  phase : Phase
  /-- `HDR` (R31) -/
  hdr : Hdr
  /-- `XF.SEEN` (R32) -/
  seen : BitVec 4
  /-- `XF.LIST`; `XF.N` is its length (R33) -/
  xfs : List Xform
  /-- `XSIZE` (R34) -/
  xsize : Nat
  /-- the level-0 image context (R35) -/
  img0 : Option Img
  /-- the nested image context (R35, R159) -/
  nested : Option Nested
  /-- the grammar position (R82) -/
  stage : Stage
  /-- `ROWS_DONE` (R40) -/
  rowsDone : Nat
  /-- `ROWS_EMITTED` (R40) -/
  rowsEmitted : Nat
  /-- the batch in emission (R313) -/
  emit : Emit
  /-- the image in the transform pipeline (R260) -/
  work : WorkImg
  /-- the internal operations issued, the next first (log 9) -/
  ops : List Instr
  /-- what the last internal operation returned (log 9) -/
  res : Result
  /-- the pixel sink (R60) -/
  sink : Sink
deriving DecidableEq, Repr

/-- The state after hardware reset (spec/70_reset_and_hazards.md R370), with no input written, no host access to come
and nothing in the sink. Fields the spec leaves unspecified are named in log 3, the model's own in logs 4, 7 and 9. -/
def State.reset : State where
  params := { lenMax := 4294967295, pixMax := 268435456 }
  host := []
  inMem := []
  inFree := none
  freeCtr := 0
  inLen := 0
  expect := 0
  status := 0
  info := 0
  pos := 0
  phase := .idle
  hdr := { w := 0, h := 0, alpha := 0, ver := 0 }
  seen := 0
  xfs := []
  xsize := 0
  img0 := none
  nested := none
  stage := .idle
  rowsDone := 0
  rowsEmitted := 0
  emit := .off
  work := { w := 0, h := 0, pix := [] }
  ops := []
  res := .nothing
  sink := { size := none, sets := [], whole := false, calls := 0 }

/-- The outcome of an instruction or a step. -/
abbrev Out := Host.Outcome State Fault Refusal

end Sys2Proof.Machine
end

