-- ==== Sys2Proof/Machine/Flags.lean ====
section
/-! DEFINITION. The flags (spec/10_state.md R43) and the words of the host-visible registers that hold them. -/

namespace Sys2Proof.Machine

/-- `BR.EOS = (BR.POS > 8 × LEN)` (spec/10_state.md R29; spec/40_bit_reader.md R123). -/
def isEos (s : State) : Bool := s.pos > 8 * s.inLen.toNat

/-- The bit of `XF.SEEN` of a transform type: 0 predictor, 1 cross-colour, 2 subtract-green, 3 colour-indexing
(spec/10_state.md R32). -/
def XKind.number : XKind → Nat
  | .predictor => 0
  | .crossColour => 1
  | .subtractGreen => 2
  | .colourIndexing => 3

/-- `XF.SEEN[t]` (spec/10_state.md R32). -/
def wasSeen (seen : BitVec 4) (k : XKind) : Bool := seen.getLsbD k.number

/-- `XF.SEEN[t] <- 1` (spec/41_stream_structure.md R143). -/
def markSeen (seen : BitVec 4) (k : XKind) : BitVec 4 := seen ||| BitVec.ofNat 4 (2 ^ k.number)

/-- The six failure kinds (spec/60_exceptions.md R341). -/
inductive Failure where
  | malformedHeader
  | invalidTransform
  | invalidColorCacheBits
  | invalidHuffmanCode
  | corruptBackreference
  | unexpectedEndOfStream
deriving DecidableEq, Repr

/-- The failure codes (spec/60_exceptions.md R341). -/
def Failure.code : Failure → Nat
  | .malformedHeader => 1
  | .invalidTransform => 2
  | .invalidColorCacheBits => 3
  | .invalidHuffmanCode => 4
  | .corruptBackreference => 5
  | .unexpectedEndOfStream => 6

/-- The STATUS word of its fields: BUSY 0, DONE 1, ERROR 2, ERRKIND 7:4, the rest 0 (spec/10_state.md R24). -/
def statusWord (busy done error : Bool) (errkind : Nat) : Word :=
  BitVec.ofNat 32 (busy.toNat + 2 * done.toNat + 4 * error.toNat + 16 * errkind)

/-- STATUS while a job runs (spec/45_sequencer.md R310). -/
def statusBusy : Word := statusWord true false false 0

/-- STATUS after success (spec/45_sequencer.md R318). -/
def statusDone : Word := statusWord false true false 0

/-- STATUS after a failure (spec/60_exceptions.md R340). -/
def statusFailed (k : Failure) : Word := statusWord false false true k.code

/-- `STATUS.BUSY`. -/
def isBusy (s : State) : Bool := s.status.getLsbD 0

/-- `STATUS.DONE`. -/
def isDone (s : State) : Bool := s.status.getLsbD 1

/-- `STATUS.ERROR`. -/
def isError (s : State) : Bool := s.status.getLsbD 2

/-- A job runs: `PHASE ∉ {IDLE, DONE, ERROR}` (spec/10_state.md R30). -/
def Phase.running : Phase → Bool
  | .idle | .done | .error => false
  | .header | .xform | .ccache | .metaCfg | .codes | .pixels | .finish => true

/-- The INFO word of a header (spec/10_state.md R25; spec/41_stream_structure.md R141). -/
def infoWord (h : Hdr) : Word :=
  BitVec.ofNat 32 ((h.w - 1) ||| ((h.h - 1) <<< 14) ||| (h.alpha.toNat <<< 28) ||| (h.ver.toNat <<< 29))

/-- What EXPECT holds after a write: bits 30:28 read 0 (spec/10_state.md R23). -/
def expectMask (v : Word) : Word := v &&& 0x8FFFFFFF

/-- ExpectCheck fails: EN is set and a dimension differs (spec/41_stream_structure.md R142). -/
def expectMismatch (expect : Word) (h : Hdr) : Bool :=
  expect.getLsbD 31 &&
    (h.w != (expect.extractLsb' 0 14).toNat + 1 || h.h != (expect.extractLsb' 14 14).toNat + 1)

end Sys2Proof.Machine
end

