-- ==== Sys2Proof/Machine/Operands.lean ====
section
/-! DEFINITION. Operand forms: channel lanes, sub-sampled sizes, prefix values, the distance map, hashes, group
indexes, the code-length order, and the lane arithmetic of the inverse transforms. -/

namespace Sys2Proof.Machine

/-! ## Pixel words (spec/00_scope.md R7) -/

/-- `A(p) = p[31:24]`. -/
def chA (p : Word) : Byte := p.extractLsb' 24 8

/-- `R(p) = p[23:16]`. -/
def chR (p : Word) : Byte := p.extractLsb' 16 8

/-- `G(p) = p[15:8]`. -/
def chG (p : Word) : Byte := p.extractLsb' 8 8

/-- `B(p) = p[7:0]`. -/
def chB (p : Word) : Byte := p.extractLsb' 0 8

/-- `ARGB(a, r, g, b)`. -/
def argb (a r g b : Byte) : Word := a ++ r ++ g ++ b

/-- Opaque black, `0xFF000000`. -/
def opaqueBlack : Word := 0xFF000000

/-- `SUB(s, b) = (s + 2^b − 1) >> b`, the sub-sampled size (spec/00_scope.md R8). -/
def subSize (s b : Nat) : Nat := (s + 2 ^ b - 1) >>> b

/-- Element `i` of a pixel list; a free value where there is none (log 13). -/
def pixAt (l : List Word) (i : Nat) : Word := l.getD i (Config.freePixel i)

/-! ## Header and framing -/

/-- The magic byte of the header (spec/30_encoding.md R83). -/
def magicByte : BitVec 8 := 0x2F

/-- A 3-bit tile exponent field: `b + 2` (spec/30_encoding.md R90). -/
def tileExp (b : BitVec 3) : Nat := b.toNat + 2

/-- `WidthBits(size)` (spec/41_stream_structure.md R149). -/
def widthBits (size : Nat) : Nat :=
  if size ≤ 2 then 3 else if size ≤ 4 then 2 else if size ≤ 16 then 1 else 0

/-- `GroupIndex(p) = (p >> 8) & 0xFFFF` (spec/41_stream_structure.md R162). -/
def groupIndex (p : Word) : Nat := (p.extractLsb' 8 16).toNat

/-- `CS`: the cache size, 0 when the cache is off (spec/41_stream_structure.md R156). -/
def cacheSize (bits : Nat) : Nat := if bits = 0 then 0 else 2 ^ bits

/-- The alphabet size of code `j` of a group (spec/30_encoding.md R94; spec/41_stream_structure.md R156). -/
def alphabetSize (ccBits j : Nat) : Nat :=
  if j = 0 then 256 + 24 + cacheSize ccBits else if j = 4 then 40 else 256

/-! ## Code lengths (spec/42_huffman.md R186) -/

/-- ORDER: the tokens in the order their lengths are transmitted. -/
def clOrder : List Nat := [17, 18, 0, 1, 2, 3, 4, 5, 16, 6, 7, 8, 9, 10, 11, 12, 13, 14, 15]

/-- CL: the 19 code-length-code lengths; tokens after the transmitted ones have length 0. -/
def clLengths (lens : List (BitVec 3)) : Code :=
  (clOrder.zip lens).foldl (fun cl tl => cl.set tl.1 tl.2.toNat) (List.replicate 19 0)

/-- SimpleSet: symbol `x` gets length 1 when it is in the alphabet (spec/42_huffman.md R180). -/
def simpleSet (L : Code) (x : Nat) : Code := L.set x 1

/-! ## Prefix values and distances (spec/43_pixel_stream.md R226 to R229) -/

/-- `PrefixValue(s)` with extra bits `e` (R226; spec/30_encoding.md R92). -/
def prefixValue (s e : Nat) : Nat :=
  if s < 4 then s + 1 else ((2 + s % 2) <<< extraBits s) + e + 1

/-- DMAP (R229): entry `plane − 1` is `(xi, yi)`. -/
def distMap : List (Int × Int) :=
  [(0, 1), (1, 0), (1, 1), (-1, 1), (0, 2), (2, 0), (1, 2), (-1, 2), (2, 1), (-2, 1), (2, 2), (-2, 2), (0, 3), (3, 0), (1, 3)] ++
  [(-1, 3), (3, 1), (-3, 1), (2, 3), (-2, 3), (3, 2), (-3, 2), (0, 4), (4, 0), (1, 4), (-1, 4), (4, 1), (-4, 1), (3, 3), (-3, 3)] ++
  [(2, 4), (-2, 4), (4, 2), (-4, 2), (0, 5), (3, 4), (-3, 4), (4, 3), (-4, 3), (5, 0), (1, 5), (-1, 5), (5, 1), (-5, 1), (2, 5)] ++
  [(-2, 5), (5, 2), (-5, 2), (4, 4), (-4, 4), (3, 5), (-3, 5), (5, 3), (-5, 3), (0, 6), (6, 0), (1, 6), (-1, 6), (6, 1), (-6, 1)] ++
  [(2, 6), (-2, 6), (6, 2), (-6, 2), (4, 5), (-4, 5), (5, 4), (-5, 4), (3, 6), (-3, 6), (6, 3), (-6, 3), (0, 7), (7, 0), (1, 7)] ++
  [(-1, 7), (5, 5), (-5, 5), (7, 1), (-7, 1), (4, 6), (-4, 6), (6, 4), (-6, 4), (2, 7), (-2, 7), (7, 2), (-7, 2), (3, 7), (-3, 7)] ++
  [(7, 3), (-7, 3), (5, 6), (-5, 6), (6, 5), (-6, 5), (8, 0), (4, 7), (-4, 7), (7, 4), (-7, 4), (8, 1), (8, 2), (6, 6), (-6, 6)] ++
  [(8, 3), (5, 7), (-5, 7), (7, 5), (-7, 5), (8, 4), (6, 7), (-6, 7), (7, 6), (-7, 6), (8, 5), (7, 7), (-7, 7), (8, 6), (8, 7)]

/-- `PlaneToDist(xs, plane)` (R228). -/
def planeToDist (xs plane : Nat) : Nat :=
  if plane > 120 then plane - 120
  else
    let m := distMap.getD (plane - 1) (1, 0)
    let d := m.1 + m.2 * (xs : Int)
    if d < 1 then 1 else d.toNat

/-- `Hash(v, bits)` (R233): the top `bits` bits of the wrapped 32-bit product. -/
def hash (v : Word) (bits : Nat) : Nat := ((v * 0x1E35A7BD#32) >>> (32 - bits)).toNat

/-! ## Lane arithmetic (spec/44_transforms.md section 2) -/

/-- A lane-wise operation on two pixels: no carry passes between lanes (R262). -/
def lanes2 (f : Byte → Byte → Byte) (p q : Word) : Word :=
  argb (f (chA p) (chA q)) (f (chR p) (chR q)) (f (chG p) (chG q)) (f (chB p) (chB q))

/-- A lane-wise operation on three pixels. -/
def lanes3 (f : Byte → Byte → Byte → Byte) (p q r : Word) : Word :=
  argb (f (chA p) (chA q) (chA r)) (f (chR p) (chR q) (chR r)) (f (chG p) (chG q) (chG r)) (f (chB p) (chB q) (chB r))

/-- AddPixels: lane by lane modulo 256 (R262). -/
def addPixels (p q : Word) : Word := lanes2 (· + ·) p q

/-- Average2: the lane-wise floor average (R263). -/
def average2 (p q : Word) : Word := lanes2 (fun x y => BitVec.ofNat 8 ((x.toNat + y.toNat) / 2)) p q

/-- The absolute difference of two lanes. -/
def laneDiff (x y : Byte) : Nat := (x.toNat - y.toNat) + (y.toNat - x.toNat)

/-- The sum of the absolute lane differences of two pixels (R264). -/
def pixelDiff (p q : Word) : Nat :=
  laneDiff (chA p) (chA q) + laneDiff (chR p) (chR q) + laneDiff (chG p) (chG q) + laneDiff (chB p) (chB q)

/-- Select: L when `pL < pT`, else T (R264). -/
def select (l t tl : Word) : Word := if pixelDiff t tl < pixelDiff l tl then l else t

/-- Clamp255 (R265). -/
def clamp255 (v : Int) : Byte := if v < 0 then 0 else if 255 < v then 255 else BitVec.ofInt 8 v

/-- ClampAddSubtractFull (R265). -/
def clampAddSubtractFull (a b c : Word) : Word :=
  lanes3 (fun x y z => clamp255 ((x.toNat : Int) + y.toNat - z.toNat)) a b c

/-- ClampAddSubtractHalf, the half truncated toward zero (R266). -/
def clampAddSubtractHalf (a b : Word) : Word :=
  lanes2 (fun x y => clamp255 ((x.toNat : Int) + ((x.toNat : Int) - y.toNat).tdiv 2)) a b

/-- ColorTransformDelta: the signed product, shifted right 5 places as a signed value (R285; log 22). -/
def colorDelta (t c : Byte) : Int := (t.toInt * c.toInt) >>> 5

end Sys2Proof.Machine
end

