-- ==== Sys2Proof/Machine/Ops.lean ====
section
/-! DEFINITION. The named operations over memory, registers and image contexts, and taking a failure (Abort).
There is no return from a failure (spec/60_exceptions.md R351): the next START begins a new job. -/

namespace Sys2Proof.Machine

/-! ## The input memory (spec/20_memory.md R60, R61) -/

/-- What an address no cell lists reads as (log 2). -/
def Memory.unlisted : Byte := 0

/-- The byte at `a`. -/
def Memory.read (m : Memory) (a : Nat) : Byte :=
  match m with
  | [] => Memory.unlisted
  | (c, x) :: t => if c = a then x else Memory.read t a

/-- Set the byte at `a`, keeping the canonical form. -/
def Memory.write (m : Memory) (a : Nat) (b : Byte) : Memory :=
  match m with
  | [] => if b = Memory.unlisted then [] else [(a, b)]
  | (c, x) :: t =>
    if a < c then (if b = Memory.unlisted then (c, x) :: t else (a, b) :: (c, x) :: t)
    else if a = c then (if b = Memory.unlisted then t else (a, b) :: t)
    else (c, x) :: Memory.write t a b

/-- Addresses strictly rise and lie above `lo`'s, and no cell holds what an unlisted address reads as. -/
def Memory.wfFrom (lo : Nat) : Memory → Bool
  | [] => true
  | (c, x) :: t => decide (lo ≤ c) && decide (x ≠ Memory.unlisted) && Memory.wfFrom (c + 1) t

/-- The canonical form: addresses strictly rising, no cell equal to what an unlisted address reads as. -/
def Memory.wf (m : Memory) : Bool := Memory.wfFrom 0 m

/-- Store bytes from address `a` up. -/
def Memory.writeBytes (m : Memory) (a : Nat) : List Byte → Memory
  | [] => m
  | b :: bs => Memory.writeBytes (m.write a b) (a + 1) bs

/-! ## The bit reader (spec/40_bit_reader.md) -/

/-- `StreamBit(i)` (spec/20_memory.md R61): a bit at or past the end of the input is 0. Once the host has written
`IN` during the job the bits inside it are free (R75; log 7). -/
def streamBit (s : State) (i : Nat) : Bool :=
  if i < 8 * s.inLen.toNat then
    match s.inFree with
    | none => (s.inMem.read (i / 8)).getLsbD (i % 8)
    | some k => Config.freeStreamBit k i
  else false

/-- The bits from the cursor on. -/
def window (s : State) : Window := fun k => streamBit s (s.pos + k)

/-- `BR.POS <- BR.POS + n` (R120, R124). -/
def advance (n : Nat) (s : State) : State := { s with pos := s.pos + n }

/-- The value `PeekBits(n)` returns (R121). -/
def peekBits (s : State) (n : Nat) : Nat := bitsAt (window s) 0 n

/-! ## Failures (spec/60_exceptions.md R340) -/

/-- A free value of `n` bits for decoder register number `j` (log 14). -/
def openReg (k j n : Nat) : Nat := (Config.freeRegister k j).toNat % 2 ^ n

/-- A free value for `HDR`, in its range (spec/10_state.md R31: unspecified until HDR executes; log 14). -/
def openHdr (k : Nat) : Hdr where
  w := openReg k 0 14 + 1
  h := openReg k 1 14 + 1
  alpha := BitVec.ofNat 1 (openReg k 2 1)
  ver := BitVec.ofNat 3 (openReg k 3 3)

/-- Nothing of a job survives it but STATUS, INFO, BITPOS and the sink (R348; spec/70_reset_and_hazards.md R371): every
image context, group, cache and transform record is gone, with the operations waiting and their results, and the
decoder's registers hold free values (log 14). The free values after it are new ones (log 7). -/
def discardJob (s : State) : State :=
  { s with
    freeCtr := s.freeCtr + 1, hdr := openHdr s.freeCtr, xsize := openReg s.freeCtr 4 15,
    seen := BitVec.ofNat 4 (openReg s.freeCtr 5 4), rowsDone := openReg s.freeCtr 6 15,
    rowsEmitted := openReg s.freeCtr 7 15, xfs := [], img0 := none, nested := none, stage := .idle, emit := .off,
    ops := [], res := .nothing, work := { w := 0, h := 0, pix := [] } }

/-- Abort(kind): PHASE ERROR, STATUS with the failure's code, BITPOS and INFO as they are, everything else of the job
discarded (R340, R348; spec/45_sequencer.md R318), the sink's contents no longer a finished image's (R319). -/
def abortState (k : Failure) (s : State) : State :=
  { discardJob s with phase := .error, status := statusFailed k, sink := { s.sink with whole := false } }

/-- `raise <Kind>`: the job ends at once in a next state. -/
def abort (k : Failure) (s : State) : Out := .next (abortState k s)

/-- The successful end of a job (spec/45_sequencer.md R314, R318). -/
def finishJob (s : State) : State :=
  { discardJob s with
    phase := .done, status := statusDone, rowsEmitted := s.hdr.h, sink := { s.sink with whole := true } }

/-! ## Image contexts (spec/10_state.md R35 to R39) -/

/-- `IMG.POS`: the number of pixels written (R39). -/
def Img.pos (m : Img) : Nat := m.pix.length

/-- The number of pixels of the image. -/
def Img.size (m : Img) : Nat := m.xs * m.ys

/-- The meta state of an image `xs` wide without a meta image (R37): `META.BITS` is 0, so `META.XS = SUB(IMG.XS, 0)`.
That `META.IDX` is then empty is the model's (DESIGN CHOICE, log 29). -/
def noMap (xs : Nat) : MetaMap := { bits := 0, xs := subSize xs 0, idx := [] }

/-- A fresh context (R35, R39): nothing read, nothing written. Of the fields NewImage does not set, `CC` is disabled,
there is no meta image and `NGROUPS` is 1: DESIGN CHOICE, log 29. -/
def freshImg (xs ys : Nat) (level0 : Bool) : Img where
  xs := xs
  ys := ys
  level0 := level0
  cc := { bits := 0, arr := [] }
  mt := noMap xs
  ngroups := 1
  codes := []
  pix := []

/-- The context being decoded: the nested one when there is one (spec/41_stream_structure.md R159). -/
def curImg (s : State) : Option Img :=
  match s.nested with
  | some n => some n.img
  | none => s.img0

/-- Replace the context being decoded. -/
def setCurImg (m : Img) (s : State) : State :=
  match s.nested with
  | some n => { s with nested := some { n with img := m } }
  | none => { s with img0 := some m }

/-- The buffer is larger than `PIX_MAX` (spec/45_sequencer.md R320; log 5). -/
def tooLarge (s : State) (xs ys : Nat) : Bool := s.params.pixMax < xs * ys

/-- The context of a sub-image begins (spec/41_stream_structure.md R151): its colour-cache field is next. -/
def openNested (u : SubUse) (xs ys : Nat) (s : State) : Out :=
  if tooLarge s xs ys then .refused .imageTooLarge
  else .next { s with nested := some { use := u, img := freshImg xs ys false }, stage := .ccache }

/-- Code `j` of group `gi` (R38). -/
def Img.code (m : Img) (gi j : Nat) : Option Code := m.codes[5 * gi + j]?

/-- The index `GroupSelect(ctx, x, y)` picks (spec/43_pixel_stream.md R221); `none` outside the meta image. -/
def groupAt (m : Img) (x y : Nat) : Option Nat :=
  if m.mt.bits = 0 then some 0 else m.mt.idx[(y >>> m.mt.bits) * m.mt.xs + (x >>> m.mt.bits)]?

/-- The group of the next pixel-stream element: that of its first pixel (R220, R221). -/
def curGroup (m : Img) : Option Nat := groupAt m (m.pos % m.xs) (m.pos / m.xs)

/-- The five codes in force at the next pixel. -/
def pixelCodes (m : Img) : Option (Code × Code × Code × Code × Code) :=
  match curGroup m with
  | none => none
  | some gi =>
    match m.code gi 0, m.code gi 1, m.code gi 2, m.code gi 3, m.code gi 4 with
    | some green, some red, some blue, some alpha, some dist => some (green, red, blue, alpha, dist)
    | _, _, _, _, _ => none

/-- The alphabet size of the code being read (spec/41_stream_structure.md R156): codes come five a group, in order. -/
def nextAlphabet (m : Img) : Nat := alphabetSize m.cc.bits (m.codes.length % 5)

/-! ## The colour cache (spec/43_pixel_stream.md R233, R235) -/

/-- CC_INSERT: overwrite the slot at the pixel's hash. A disabled cache has no slot (log 18). -/
def CCache.insert (cc : CCache) (v : Word) : CCache := { cc with arr := cc.arr.set (hash v cc.bits) v }

/-- CC_LOOKUP: the slot's content, no hashing. -/
def CCache.lookup (cc : CCache) (key : Nat) : Word := pixAt cc.arr key

/-- The cache CCACHE_ON creates: every slot CACHE_INIT (spec/41_stream_structure.md R153). -/
def freshCache (c : Nat) : CCache := { bits := c, arr := List.replicate (2 ^ c) 0 }

/-- Emit: write one pixel and insert it into the cache (R222). -/
def Img.emit (m : Img) (v : Word) : Img :=
  { m with pix := m.pix ++ [v], cc := if 0 < m.cc.bits then m.cc.insert v else m.cc }

/-- The copy of PX_BACKREF: `len` pixels, one at a time, each read after the ones before it are written (R224, R231). -/
def Img.copy (m : Img) (dist : Nat) : (len : Nat) → Img
  | 0 => m
  | len + 1 => Img.copy (m.emit (pixAt m.pix (m.pos - dist))) dist len

/-! ## The position guard -/

/-- Run an element at its grammar position only (spec/30_encoding.md R82; log 10). -/
def whenStage (ok : Bool) (k : Out) : Out := if ok then k else .refused .outOfGrammar

/-- Run an element on the context being decoded. -/
def withImg (s : State) (k : Img → Out) : Out :=
  match curImg s with
  | some m => k m
  | none => .refused .outOfGrammar

/-! ## Results of internal operations -/

/-- Record what an internal operation returned (log 9). -/
def setRes (r : Result) (s : State) : State := { s with res := r }

/-- The palette in the result, if it is one. -/
def Result.palette : Result → List Word
  | .pixels ps => ps
  | .nothing | .value _ | .pixel _ => []

end Sys2Proof.Machine
end

