-- ==== Sys2Proof/Machine/BitReader.lean ====
section
/-! DEFINITION. The bit reader's operations (spec/40_bit_reader.md). None raises a failure: a read past the end gives
zero bits, and the callers check the end of the stream (R125). -/

namespace Sys2Proof.Machine

/-- BR_READ (R120): the next `n` bits, consumed. -/
def execBrRead (n : Nat) (s : State) : Out := .next (setRes (.value (peekBits s n)) (advance n s))

/-- BR_PEEK (R121): the next `n` bits, not consumed. -/
def execBrPeek (n : Nat) (s : State) : Out := .next (setRes (.value (peekBits s n)) s)

/-- BR_FILL (R122): no architectural effect. -/
def execBrFill (s : State) : Out := .next s

/-- BR_EOS (R123): 1 when the cursor has run past the end. -/
def execBrEos (s : State) : Out := .next (setRes (.value (isEos s).toNat) s)

/-- BR_ADVANCE (R124): consume `n` bits. -/
def execBrAdvance (n : Nat) (s : State) : Out := .next (advance n s)

end Sys2Proof.Machine
end

