-- ==== Sys2Proof/Machine/Framing.lean ====
section
/-! DEFINITION. The colour-cache and meta-Huffman elements (spec/41_stream_structure.md section 4). -/

namespace Sys2Proof.Machine

/-- After CacheConfig: level 0 reads its meta bit (R140), a nested image has no meta image and one group, and
reads its codes (R151). -/
def afterCache (m : Img) (s : State) : State :=
  if m.level0 then { setCurImg m s with phase := .metaCfg, stage := .metaBit }
  else { setCurImg { m with mt := noMap m.xs, ngroups := 1 } s with stage := .hcode }

/-- CCACHE_OFF (R152). -/
def execCcacheOff (s : State) : Out :=
  whenStage (s.stage = .ccache) <|
    withImg s fun m => .next (afterCache { m with cc := { bits := 0, arr := [] } } (advance 1 s))

/-- CCACHE_ON (R153): only 1..11 is legal; every slot starts as CACHE_INIT. -/
def execCcacheOn (c : BitVec 4) (s : State) : Out :=
  whenStage (s.stage = .ccache) <|
    withImg s fun m =>
      if c.toNat < 1 ∨ 11 < c.toNat then abort .invalidColorCacheBits (advance 5 s)
      else .next (afterCache { m with cc := freshCache c.toNat } (advance 5 s))

/-- The level-0 image's groups are read next (R140, R156). -/
def beginCodes (m : Img) (s : State) : State :=
  { s with img0 := some m, nested := none, phase := .codes, stage := .hcode }

/-- META_OFF (R154): no meta image and one group. -/
def execMetaOff (s : State) : Out :=
  whenStage (s.stage = .metaBit) <|
    match s.img0 with
    | some m => .next (beginCodes { m with mt := noMap m.xs, ngroups := 1 } (advance 1 s))
    | none => .refused .outOfGrammar

/-- META_ON (R155): the meta image is a sub-image of one index per tile. -/
def execMetaOn (b : BitVec 3) (s : State) : Out :=
  whenStage (s.stage = .metaBit) <|
    match s.img0 with
    | some m =>
      openNested (.groupMap (tileExp b)) (subSize m.xs (tileExp b)) (subSize m.ys (tileExp b)) (advance 4 s)
    | none => .refused .outOfGrammar

end Sys2Proof.Machine
end

