-- ==== Sys2Proof/Machine/Header.lean ====
section
/-! DEFINITION. The header element (spec/41_stream_structure.md section 2). -/

namespace Sys2Proof.Machine

/-- HDR (R141, R142; order of checks R349): the magic is checked after 8 bits, the version after 40, then the end of
the stream, then the expected dimensions. INFO and XSIZE (R34) are written when the header is accepted. -/
def execHdr (magic : BitVec 8) (w h : BitVec 14) (a : BitVec 1) (v : BitVec 3) (s : State) : Out :=
  whenStage (s.stage = .header) <|
    if magic ≠ magicByte then abort .malformedHeader (advance 8 s)
    else
      let hd : Hdr := { w := w.toNat + 1, h := h.toNat + 1, alpha := a, ver := v }
      let s1 := { advance 40 s with hdr := hd }
      if v ≠ 0 then abort .malformedHeader s1
      else if isEos s1 then abort .unexpectedEndOfStream s1
      else if expectMismatch s1.expect hd then abort .malformedHeader s1
      else .next { s1 with info := infoWord hd, xsize := hd.w, phase := .xform, stage := .xform }

end Sys2Proof.Machine
end

