-- ==== Sys2Proof/Machine/HostPort.lean ====
section
/-! DEFINITION. The host interface and the sink: HOST_START, SINK_ALLOC, SINK_SET (spec/45_sequencer.md), the register
access rules (spec/10_state.md R21 to R27) and the hardware reset (spec/70_reset_and_hazards.md R370). -/

namespace Sys2Proof.Machine

/-- The job-start state (spec/45_sequencer.md R310; spec/70_reset_and_hazards.md R371; ROWS_DONE, spec/10_state.md
R40, log 16). Nothing of an earlier job survives: `HDR` and `XSIZE` hold free values until HDR executes (log 26). The
job reads the bytes the host left (R72), so no free bits are in force. -/
def startJob (s : State) : State :=
  { discardJob s with
    status := statusBusy, info := 0, pos := 0, seen := 0, rowsDone := 0, rowsEmitted := 0,
    phase := .header, stage := .header, inFree := none }

/-- HOST_START (R310): ignored while BUSY; refused over LEN_MAX (R320). -/
def execHostStart (s : State) : Out :=
  if isBusy s then .next s
  else if s.params.lenMax < s.inLen.toNat then .refused .inputTooLong
  else .next (startJob s)

/-- SINK_ALLOC (R311): `allocate(w, h, 4)`; no pixel is set yet. -/
def execSinkAlloc (w h : Nat) (s : State) : Out :=
  .next { s with sink :=
    { size := some (w, h, 4), sets := [], whole := false, calls := s.sink.calls + 1 } }

/-- `setPixelRgba(x, y, R(p), G(p), B(p), A(p))` (R315). -/
def sinkPixel (x y : Nat) (p : Word) : SinkPixel :=
  { x := x, y := y, r := chR p, g := chG p, b := chB p, a := chA p }

/-- SINK_SET (R316). -/
def execSinkSet (x y : Nat) (p : Word) (s : State) : Out :=
  .next { s with sink :=
    { s.sink with sets := s.sink.sets ++ [sinkPixel x y p], calls := s.sink.calls + 1 } }

/-! ## Register access -/

/-- A register read (R21 to R27). -/
def readReg (s : State) : Reg → Word
  | .ctrl => 0
  | .inLen => s.inLen
  | .expect => s.expect
  | .status => s.status
  | .info => s.info
  | .bitpos => BitVec.ofNat 32 s.pos

/-- A register write other than CTRL's START (R22, R23, R27): IN_LEN and EXPECT only while not BUSY; STATUS, INFO and
BITPOS never. -/
def writeReg (r : Reg) (v : Word) (s : State) : State :=
  match r with
  | .inLen => if isBusy s then s else { s with inLen := v }
  | .expect => if isBusy s then s else { s with expect := expectMask v }
  | .ctrl | .status | .info | .bitpos => s

/-- A write of a byte of `IN` (spec/20_memory.md R75): while BUSY, the bits read from then on are free (log 7). -/
def writeIn (a : BitVec 32) (b : Byte) (s : State) : State :=
  let s1 := { s with inMem := s.inMem.write a.toNat b }
  if isBusy s then { s1 with inFree := some s.freeCtr, freeCtr := s.freeCtr + 1 } else s1

/-- The hardware reset at any time (spec/70_reset_and_hazards.md R370): `IN` and the sink stay, everything else takes
its reset value; the sink of an abandoned job holds no whole image (93_implementation_defined.md U19; log 24). -/
def hardReset (s : State) : State :=
  { State.reset with
    params := s.params, host := s.host, inMem := s.inMem, freeCtr := s.freeCtr + 1,
    sink := { s.sink with whole := s.sink.whole && !isBusy s } }

/-! ## The host's view of the sink -/

/-- The last setPixelRgba of a position. -/
def Sink.last (k : Sink) (x y : Nat) : Option SinkPixel := k.sets.reverse.find? fun q => q.x == x && q.y == y

/-- What the host reads at `(x, y)`, as an ARGB word: the pixel set, once no job runs and the last one that allocated
the sink has finished (spec/70_reset_and_hazards.md R375); otherwise a free value (spec/45_sequencer.md R319), a
new one after every sink call, START, job end, reset and write of `IN` while BUSY; two reads of a place between which
none of these happens agree, which the spec does not say (spec/20_memory.md R68; DESIGN CHOICE, log 8). -/
def hostSinkPixel (s : State) (x y : Nat) : Word :=
  match s.sink.whole && !isBusy s, s.sink.last x y with
  | true, some q => argb q.a q.r q.g q.b
  | _, _ => Config.freeSinkPixel s.freeCtr s.sink.calls x y

/-- The sink as a byte array: pixel `(x, y)` of a `W`-wide sink is bytes `4 × (y × W + x) + 0..3` as r, g, b, a
(spec/20_memory.md R65). -/
def hostSinkByte (s : State) (W i : Nat) : Byte :=
  let p := hostSinkPixel s (i / 4 % W) (i / 4 / W)
  match i % 4 with
  | 0 => chR p
  | 1 => chG p
  | 2 => chB p
  | _ => chA p

end Sys2Proof.Machine
end

