-- ==== Sys2Proof/Machine/Huffman.lean ====
section
/-! DEFINITION. Reading, building and decoding prefix codes (spec/42_huffman.md). -/

namespace Sys2Proof.Machine

/-! ## The end of a code -/

/-- The groups are read: level 0 enters PIXELS, where SINK_ALLOC is issued once, before any pixel (R140, R311); a
nested image reads its pixels. -/
def enterPixels (m : Img) (s : State) : State :=
  if m.level0 then
    { setCurImg m s with phase := .pixels, stage := .pixel, ops := s.ops ++ [.sinkAlloc s.hdr.w s.hdr.h] }
  else { setCurImg m s with stage := .pixel }

/-- The code joins its group, and the next code follows, until every group has its five (R156). -/
def pushCode (L : Code) (m : Img) (s : State) : State :=
  let m' := { m with codes := m.codes ++ [L] }
  if m'.codes.length < 5 * m'.ngroups then { setCurImg m' s with stage := .hcode } else enterPixels m' s

/-- The end of ReadCode (R180, R200): the end-of-stream check, then BuildCode's (R194 to R196). -/
def finishCode (L : Code) (m : Img) (s : State) : Out :=
  if isEos s then abort .unexpectedEndOfStream s
  else if validCode L then .next (pushCode L m s)
  else abort .invalidHuffmanCode s

/-! ## Simple codes -/

/-- A simple code of the symbols `xs`, taking `n` bits (R180, R185). -/
def simpleCode (xs : List Nat) (n : Nat) (s : State) : Out :=
  whenStage (s.stage = .hcode) <|
    withImg s fun m => finishCode (xs.foldl simpleSet (List.replicate (nextAlphabet m) 0)) m (advance n s)

/-- HCODE_S1B1 (R181). -/
def execHcodeS1b1 (x : BitVec 1) (s : State) : Out := simpleCode [x.toNat] 4 s

/-- HCODE_S1B8 (R182). -/
def execHcodeS1b8 (x : BitVec 8) (s : State) : Out := simpleCode [x.toNat] 11 s

/-- HCODE_S2B1 (R183). -/
def execHcodeS2b1 (x : BitVec 1) (y : BitVec 8) (s : State) : Out := simpleCode [x.toNat, y.toNat] 12 s

/-- HCODE_S2B8 (R184). -/
def execHcodeS2b8 (x y : BitVec 8) (s : State) : Out := simpleCode [x.toNat, y.toNat] 19 s

/-! ## Normal codes -/

/-- HCODE_NORMAL (R186, R187): the code-length code is built before any further bit is read. -/
def execHcodeNormal (k : BitVec 4) (lens : List (BitVec 3)) (s : State) : Out :=
  whenStage (s.stage = .hcode) <|
    withImg s fun _ =>
      let s1 := advance (5 + 3 * (k.toNat + 4)) s
      let cl := clLengths lens
      if validCode cl then .next { s1 with stage := .maxsym cl } else abort .invalidHuffmanCode s1

/-- MAXSYM at its position, with the code-length code in force and the alphabet size. -/
def atMaxsym (s : State) (k : Code → Nat → Out) : Out :=
  match s.stage with
  | .maxsym cl => withImg s fun m => k cl (nextAlphabet m)
  | .idle | .header | .xform | .ccache | .metaBit | .hcode | .token _ _ _ _ | .pixel | .palette | .finish =>
    .refused .outOfGrammar

/-- The token loop begins with `prev = 8` (R189). -/
def beginTokens (cl : Code) (left : Nat) (s : State) : Out := .next { s with stage := .token cl [] left 8 }

/-- MAXSYM_OFF (R188): as many tokens as the alphabet has symbols. -/
def execMaxsymOff (s : State) : Out :=
  atMaxsym s fun cl A => beginTokens cl A (advance 1 s)

/-- MAXSYM_ON (R188): `2 + m` tokens, at most the alphabet size. -/
def execMaxsymOn (n : BitVec 3) (m : Nat) (s : State) : Out :=
  atMaxsym s fun cl A =>
    let s1 := advance (6 + 2 * n.toNat) s
    if A < 2 + m then abort .invalidHuffmanCode s1 else beginTokens cl (2 + m) s1

/-- A token at its position: the code-length code, the lengths so far, the tokens left, `prev`, and the image. -/
def atToken (s : State) (k : Code → List Nat → Nat → Nat → Img → Out) : Out :=
  match s.stage with
  | .token cl lens left prev => withImg s fun m => k cl lens left prev m
  | .idle | .header | .xform | .ccache | .metaBit | .hcode | .maxsym _ | .pixel | .palette | .finish =>
    .refused .outOfGrammar

/-- The loop's condition after a token (R189): all lengths are written or the tokens have run out, and lengths not
written are 0. -/
def nextToken (cl : Code) (lens : List Nat) (left prev : Nat) (m : Img) (s : State) : Out :=
  if lens.length < nextAlphabet m ∧ left ≠ 0 then .next { s with stage := .token cl lens left prev }
  else finishCode (lens ++ List.replicate (nextAlphabet m - lens.length) 0) m s

/-- CL_LIT (R190): a 0 does not change `prev`. -/
def execClLit (tok : BitVec 4) (s : State) : Out :=
  atToken s fun cl lens left prev m =>
    nextToken cl (lens ++ [tok.toNat]) (left - 1) (if tok = 0 then prev else tok.toNat) m
      (advance (symbolBits cl tok.toNat) s)

/-- A run of `rep` lengths `len` by token `tok` with `eb` extra bits (R191 to R193): it may not pass the end of the
alphabet. -/
def runToken (tok eb rep : Nat) (len : Nat → Nat) (s : State) : Out :=
  atToken s fun cl lens left prev m =>
    let s1 := advance (symbolBits cl tok + eb) s
    if nextAlphabet m < lens.length + rep then abort .invalidHuffmanCode s1
    else nextToken cl (lens ++ List.replicate rep (len prev)) (left - 1) prev m s1

/-- CL_REP16 (R191). -/
def execClRep16 (e : BitVec 2) (s : State) : Out := runToken 16 2 (3 + e.toNat) (fun prev => prev) s

/-- CL_ZERO17 (R192). -/
def execClZero17 (e : BitVec 3) (s : State) : Out := runToken 17 3 (3 + e.toNat) (fun _ => 0) s

/-- CL_ZERO18 (R193). -/
def execClZero18 (e : BitVec 7) (s : State) : Out := runToken 18 7 (11 + e.toNat) (fun _ => 0) s

/-! ## Decoding a symbol -/

/-- The current code a selector names (log 21). -/
def selectedCode (c : CodeSel) (s : State) : Option Code :=
  match c with
  | .codeLength =>
    match s.stage with
    | .maxsym cl => some cl
    | .token cl _ _ _ => some cl
    | .idle | .header | .xform | .ccache | .metaBit | .hcode | .pixel | .palette | .finish => none
  | .channel gi j =>
    match curImg s with
    | some m => m.code gi j
    | none => none

/-- HUFF_DECODE (R199): the symbol whose codeword the next bits begin with; it consumes exactly that codeword. -/
def execHuffDecode (c : CodeSel) (s : State) : Out :=
  match selectedCode c s with
  | none => .refused .operandAbsent
  | some L =>
    match decodeSymbol L (window s) 0 with
    | none => .refused .operandAbsent
    | some (sym, n) => .next (setRes (.value sym) (advance n s))

end Sys2Proof.Machine
end

