-- ==== Sys2Proof/Machine/Predict.lean ====
section
/-! DEFINITION. The predictor modes (spec/44_transforms.md section 3). Each instruction returns its prediction; the
inverse predictor (Machine/Inverse.lean) adds it to the residual. -/

namespace Sys2Proof.Machine

/-- `Predict(m, L, T, TR, TL)` (R269 to R283); modes 14 and 15 act as mode 0. -/
def predict (m : Nat) (l t tr tl : Word) : Word :=
  match m with
  | 1 => l
  | 2 => t
  | 3 => tr
  | 4 => tl
  | 5 => average2 (average2 l tr) t
  | 6 => average2 l tl
  | 7 => average2 l t
  | 8 => average2 tl t
  | 9 => average2 t tr
  | 10 => average2 (average2 l tl) (average2 t tr)
  | 11 => select l t tl
  | 12 => clampAddSubtractFull l t tl
  | 13 => clampAddSubtractHalf (average2 l t) tl
  | _ => opaqueBlack

/-- A predictor mode returns its prediction and changes nothing else (log 9). -/
def runPredict (m : Nat) (l t tr tl : Word) (s : State) : Out := .next (setRes (.pixel (predict m l t tr tl)) s)

/-- PRED_M0 (R269). -/
def execPredM0 (l t tr tl : Word) (s : State) : Out := runPredict 0 l t tr tl s

/-- PRED_M1 (R270). -/
def execPredM1 (l t tr tl : Word) (s : State) : Out := runPredict 1 l t tr tl s

/-- PRED_M2 (R271). -/
def execPredM2 (l t tr tl : Word) (s : State) : Out := runPredict 2 l t tr tl s

/-- PRED_M3 (R272). -/
def execPredM3 (l t tr tl : Word) (s : State) : Out := runPredict 3 l t tr tl s

/-- PRED_M4 (R273). -/
def execPredM4 (l t tr tl : Word) (s : State) : Out := runPredict 4 l t tr tl s

/-- PRED_M5 (R274). -/
def execPredM5 (l t tr tl : Word) (s : State) : Out := runPredict 5 l t tr tl s

/-- PRED_M6 (R275). -/
def execPredM6 (l t tr tl : Word) (s : State) : Out := runPredict 6 l t tr tl s

/-- PRED_M7 (R276). -/
def execPredM7 (l t tr tl : Word) (s : State) : Out := runPredict 7 l t tr tl s

/-- PRED_M8 (R277). -/
def execPredM8 (l t tr tl : Word) (s : State) : Out := runPredict 8 l t tr tl s

/-- PRED_M9 (R278). -/
def execPredM9 (l t tr tl : Word) (s : State) : Out := runPredict 9 l t tr tl s

/-- PRED_M10 (R279). -/
def execPredM10 (l t tr tl : Word) (s : State) : Out := runPredict 10 l t tr tl s

/-- PRED_M11 (R280). -/
def execPredM11 (l t tr tl : Word) (s : State) : Out := runPredict 11 l t tr tl s

/-- PRED_M12 (R281). -/
def execPredM12 (l t tr tl : Word) (s : State) : Out := runPredict 12 l t tr tl s

/-- PRED_M13 (R282). -/
def execPredM13 (l t tr tl : Word) (s : State) : Out := runPredict 13 l t tr tl s

/-- PRED_M14 (R283). -/
def execPredM14 (l t tr tl : Word) (s : State) : Out := runPredict 14 l t tr tl s

/-- PRED_M15 (R283). -/
def execPredM15 (l t tr tl : Word) (s : State) : Out := runPredict 15 l t tr tl s

end Sys2Proof.Machine
end

