-- ==== Sys2Proof/Machine/Inverse.lean ====
section
/-! DEFINITION. The inverse transforms (spec/44_transforms.md). Each works on the image InvertAll threads through the
pipeline, `work` (R260; log 9). None reads the stream, writes a flag or fails. -/

namespace Sys2Proof.Machine

/-! ## Predictor -/

/-- The index of the tile of pixel `(x, y)` in a sub-image of a `w`-wide image (spec/41_stream_structure.md R160). -/
def tileIndex (w bits x y : Nat) : Nat := (y >>> bits) * subSize w bits + (x >>> bits)

/-- PredMode: the low nibble of green of the tile's sub-image pixel (R268). -/
def predMode (data : List Word) (w bits x y : Nat) : Nat :=
  ((pixAt data (tileIndex w bits x y)).extractLsb' 8 4).toNat

/-- The prediction of the next pixel, from the pixels reconstructed so far (R267). In the rightmost column TR is the
current row's first pixel. -/
def predictNext (w bits : Nat) (data out : List Word) : Word :=
  let x := out.length % w
  let y := out.length / w
  if x = 0 ∧ y = 0 then opaqueBlack
  else if y = 0 then pixAt out (x - 1)
  else if x = 0 then pixAt out ((y - 1) * w)
  else
    predict (predMode data w bits x y)
      (pixAt out (y * w + (x - 1)))
      (pixAt out ((y - 1) * w + x))
      (if x < w - 1 then pixAt out ((y - 1) * w + (x + 1)) else pixAt out (y * w))
      (pixAt out ((y - 1) * w + (x - 1)))

/-- Reconstruct the residuals in raster order after the pixels `out` (R267). -/
def invPredFrom (w bits : Nat) (data : List Word) : (res out : List Word) → List Word
  | [], out => out
  | r :: rs, out => invPredFrom w bits data rs (out ++ [addPixels r (predictNext w bits data out)])

/-- The inverse predictor of an image (R267). -/
def invPred (w bits : Nat) (data res : List Word) : List Word := invPredFrom w bits data res []

/-- INV_PRED (R267). -/
def execInvPred (bits : Nat) (data : List Word) (s : State) : Out :=
  .next { s with work := { s.work with pix := invPred s.work.w bits data s.work.pix } }

/-! ## Cross-colour -/

/-- The inverse cross-colour transform of one pixel with its tile's element (R284 to R286): green_to_red is B(e),
green_to_blue G(e), red_to_blue R(e), and the blue term uses the corrected red. -/
def xcolorPixel (p e : Word) : Word :=
  let r := BitVec.ofInt 8 (((chR p).toNat : Int) + colorDelta (chB e) (chG p))
  let b := BitVec.ofInt 8 (((chB p).toNat : Int) + colorDelta (chG e) (chG p) + colorDelta (chR e) r)
  argb (chA p) r (chG p) b

/-- The inverse cross-colour transform of an image (R286). -/
def invXcolor (w bits : Nat) (data pix : List Word) : List Word :=
  pix.zipIdx.map fun pi => xcolorPixel pi.1 (pixAt data (tileIndex w bits (pi.2 % w) (pi.2 / w)))

/-- INV_XCOLOR (R286). -/
def execInvXcolor (bits : Nat) (data : List Word) (s : State) : Out :=
  .next { s with work := { s.work with pix := invXcolor s.work.w bits data s.work.pix } }

/-! ## Subtract-green -/

/-- The inverse subtract-green transform of one pixel (R287). -/
def subgreenPixel (p : Word) : Word := argb (chA p) (chR p + chG p) (chG p) (chB p + chG p)

/-- INV_SUBGREEN (R287). -/
def execInvSubgreen (s : State) : Out :=
  .next { s with work := { s.work with pix := s.work.pix.map subgreenPixel } }

/-! ## Colour indexing -/

/-- The running lane sums of a delta-coded palette, after an entry `prev` (R288). -/
def paletteSums (prev : Word) : List Word → List Word
  | [] => []
  | p :: ps => addPixels p prev :: paletteSums (addPixels p prev) ps

/-- PaletteExpand (R288): the sums, padded with transparent black to `2^(8 >> WB)` entries. -/
def paletteTable (pal : List Word) (wb : Nat) : List Word :=
  let sums := paletteSums 0 pal
  sums ++ List.replicate (2 ^ (8 >>> wb) - sums.length) 0

/-- PALETTE_EXPAND (R288): it returns the table. -/
def execPaletteExpand (pal : List Word) (wb : Nat) (s : State) : Out :=
  .next (setRes (.pixels (paletteTable pal wb)) s)

/-- The palette index of the pixel at column `x` in the green byte of its packed pixel: the leftmost pixel of a group
takes the least significant bits (R289). -/
def packedIndex (wb x : Nat) (g : Byte) : Nat :=
  (g.toNat >>> ((8 >>> wb) * (x % 2 ^ wb))) % 2 ^ (8 >>> wb)

/-- The inverse colour-indexing transform: a `pw`-wide image becomes a `w`-wide one (R289). -/
def invCindex (pw w h wb : Nat) (pal pix : List Word) : List Word :=
  (List.range h).flatMap fun y =>
    (List.range w).map fun x => pixAt pal (packedIndex wb x (chG (pixAt pix (y * pw + (x >>> wb)))))

/-- INV_CINDEX (R289). -/
def execInvCindex (w wb : Nat) (pal : List Word) (s : State) : Out :=
  .next { s with work := { s.work with
    w := w, pix := invCindex s.work.w w s.work.h wb pal s.work.pix } }

/-! ## The pipeline -/

/-- The inverse operation of a transform record (R260). -/
def inverseOp (t : Xform) : Instr :=
  match t.kind with
  | .predictor => .invPred t.bits t.data
  | .crossColour => .invXcolor t.bits t.data
  | .subtractGreen => .invSubgreen
  | .colourIndexing => .invCindex t.xsize t.bits t.data

/-- InvertAll's operations: the last transform read is inverted first (R260). -/
def inverseOps (xfs : List Xform) : List Instr := xfs.reverse.map inverseOp

end Sys2Proof.Machine
end

