-- ==== Sys2Proof/Machine/Pixels.lean ====
section
/-! DEFINITION. The pixel stream: literals, backward references, cache references, group selection, the colour cache
(spec/43_pixel_stream.md). -/

namespace Sys2Proof.Machine

/-- A pixel-stream element at its position: an image with pixels left (R220) and the codes in force (R221). -/
def atPixel (s : State) (k : Img → Code × Code × Code × Code × Code → Out) : Out :=
  whenStage (s.stage = .pixel) <|
    withImg s fun m =>
      if m.pos < m.size then
        match pixelCodes m with
        | some cs => k m cs
        | none => .refused .outOfGrammar
      else .refused .outOfGrammar

/-- The end of an element (R220, R236): the end-of-stream check, then, at level 0, the count of rows done (R312). -/
def finishElement (m : Img) (s : State) : Out :=
  if isEos s then abort .unexpectedEndOfStream s
  else
    let s1 := setCurImg m s
    .next (if m.level0 then { s1 with rowsDone := m.pos / m.xs } else s1)

/-- PX_LITERAL (R223). -/
def execPxLiteral (g r b a : BitVec 8) (s : State) : Out :=
  atPixel s fun m (green, red, blue, alpha, _) =>
    finishElement (m.emit (argb a r g b))
      (advance (symbolBits green g.toNat + symbolBits red r.toNat + symbolBits blue b.toNat
        + symbolBits alpha a.toNat) s)

/-- BoundsCheck fails: the copy starts before pixel 0 or ends past the last pixel (R230). -/
def outOfBounds (m : Img) (dist len : Nat) : Bool := m.pos < dist || m.size - m.pos < len

/-- The distance of a backward reference (R227, R228). -/
def backrefDist (m : Img) (d de : Nat) : Nat := planeToDist m.xs (prefixValue d de)

/-- The length of a backward reference (R225). -/
def backrefLen (g le : Nat) : Nat := prefixValue (g - 256) le

/-- PX_BACKREF (R224): the end-of-stream check comes before the bounds check (R236, R349), and a failing copy writes
no pixel (R346). -/
def execPxBackref (g le d de : Nat) (s : State) : Out :=
  atPixel s fun m (green, _, _, _, dist) =>
    let s1 := advance (symbolBits green g + extraBits (g - 256) + symbolBits dist d + extraBits d) s
    if isEos s1 then abort .unexpectedEndOfStream s1
    else if outOfBounds m (backrefDist m d de) (backrefLen g le) then abort .corruptBackreference s1
    else finishElement (m.copy (backrefDist m d de) (backrefLen g le)) s1

/-- PX_CACHE (R232): the pixel in slot `g − 280`, written and inserted again at its own hash. -/
def execPxCache (g : Nat) (s : State) : Out :=
  atPixel s fun m (green, _, _, _, _) =>
    finishElement (m.emit (m.cc.lookup (g - 280))) (advance (symbolBits green g) s)

/-- GROUP_SELECT (R221): the index of the group that governs an element starting at column `x`, row `y`. -/
def execGroupSelect (x y : Nat) (s : State) : Out :=
  match curImg s with
  | none => .refused .operandAbsent
  | some m =>
    match groupAt m x y with
    | none => .refused .operandAbsent
    | some gi => .next (setRes (.value gi) s)

/-- CC_INSERT (R233). -/
def execCcInsert (v : Word) (s : State) : Out :=
  match curImg s with
  | none => .refused .operandAbsent
  | some m => .next (setCurImg { m with cc := m.cc.insert v } s)

/-- CC_LOOKUP (R235). -/
def execCcLookup (key : Nat) (s : State) : Out :=
  match curImg s with
  | none => .refused .operandAbsent
  | some m => .next (setRes (.pixel (m.cc.lookup key)) s)

end Sys2Proof.Machine
end

