-- ==== Sys2Proof/Machine/Transforms.lean ====
section
/-! DEFINITION. The transform records (spec/41_stream_structure.md section 3). A record with a sub-image is completed
by the sequencer when the sub-image is (Machine/Sequencer.lean). -/

namespace Sys2Proof.Machine

/-- XFORM dispatch and DuplicateCheck (R143, R144): a type read before fails the job just after the presence bit and
the two type bits. -/
def beginXform (k : XKind) (body : State → Out) (s : State) : Out :=
  whenStage (s.stage = .xform) <|
    if wasSeen s.seen k then abort .invalidTransform (advance 3 s)
    else body { s with seen := markSeen s.seen k }

/-- XFORM_END: the list ends and the level-0 context begins (R140, R143, R150). -/
def execXformEnd (s : State) : Out :=
  whenStage (s.stage = .xform) <|
    if tooLarge s s.xsize s.hdr.h then .refused .imageTooLarge
    else .next { advance 1 s with
      phase := .ccache, stage := .ccache, img0 := some (freshImg s.xsize s.hdr.h true) }

/-- The sub-image of one value per `2^bits × 2^bits` tile of the coded image (R145, R146, R160). -/
def openTiles (u : SubUse) (bits : Nat) (s : State) : Out :=
  openNested u (subSize s.xsize bits) (subSize s.hdr.h bits) s

/-- XFORM_PRED (R145). -/
def execXformPred (b : BitVec 3) (s : State) : Out :=
  beginXform .predictor (fun s => openTiles (.predictor (tileExp b)) (tileExp b) (advance 6 s)) s

/-- XFORM_XCOLOR (R146). -/
def execXformXcolor (b : BitVec 3) (s : State) : Out :=
  beginXform .crossColour (fun s => openTiles (.crossColour (tileExp b)) (tileExp b) (advance 6 s)) s

/-- Append a record to XF.LIST (R33). -/
def pushXform (t : Xform) (s : State) : State := { s with xfs := s.xfs ++ [t] }

/-- XFORM_SUBGREEN (R147): no data, no further bits. -/
def execXformSubgreen (s : State) : Out :=
  beginXform .subtractGreen
    (fun s => .next (pushXform { kind := .subtractGreen, xsize := s.xsize, bits := 0, data := [] } (advance 3 s))) s

/-- XFORM_CINDEX (R148, R149): the palette is a sub-image of one row. -/
def execXformCindex (n : BitVec 8) (s : State) : Out :=
  beginXform .colourIndexing
    (fun s => openNested (.palette (widthBits (n.toNat + 1))) (n.toNat + 1) 1 (advance 11 s)) s

end Sys2Proof.Machine
end

