-- ==== Sys2Proof/Machine/Dispatch.lean ====
section
/-! DEFINITION. One arm per instruction: each calls its meaning. -/

namespace Sys2Proof.Machine

def exec (i : Instr) (s : State) : Host.Outcome State Fault Refusal :=
  match i with
  | .hdr magic w h a v => Sys2Proof.Machine.execHdr magic w h a v s
  | .xformEnd => Sys2Proof.Machine.execXformEnd s
  | .xformPred b => Sys2Proof.Machine.execXformPred b s
  | .xformXcolor b => Sys2Proof.Machine.execXformXcolor b s
  | .xformSubgreen => Sys2Proof.Machine.execXformSubgreen s
  | .xformCindex n => Sys2Proof.Machine.execXformCindex n s
  | .ccacheOff => Sys2Proof.Machine.execCcacheOff s
  | .ccacheOn c => Sys2Proof.Machine.execCcacheOn c s
  | .metaOff => Sys2Proof.Machine.execMetaOff s
  | .metaOn b => Sys2Proof.Machine.execMetaOn b s
  | .hcodeS1b1 x => Sys2Proof.Machine.execHcodeS1b1 x s
  | .hcodeS1b8 x => Sys2Proof.Machine.execHcodeS1b8 x s
  | .hcodeS2b1 x y => Sys2Proof.Machine.execHcodeS2b1 x y s
  | .hcodeS2b8 x y => Sys2Proof.Machine.execHcodeS2b8 x y s
  | .hcodeNormal k lens => Sys2Proof.Machine.execHcodeNormal k lens s
  | .maxsymOff => Sys2Proof.Machine.execMaxsymOff s
  | .maxsymOn n m => Sys2Proof.Machine.execMaxsymOn n m s
  | .clLit tok => Sys2Proof.Machine.execClLit tok s
  | .clRep16 e => Sys2Proof.Machine.execClRep16 e s
  | .clZero17 e => Sys2Proof.Machine.execClZero17 e s
  | .clZero18 e => Sys2Proof.Machine.execClZero18 e s
  | .pxLiteral g r b a => Sys2Proof.Machine.execPxLiteral g r b a s
  | .pxBackref g le d de => Sys2Proof.Machine.execPxBackref g le d de s
  | .pxCache g => Sys2Proof.Machine.execPxCache g s
  | .predM0 l t tr tl => Sys2Proof.Machine.execPredM0 l t tr tl s
  | .predM1 l t tr tl => Sys2Proof.Machine.execPredM1 l t tr tl s
  | .predM2 l t tr tl => Sys2Proof.Machine.execPredM2 l t tr tl s
  | .predM3 l t tr tl => Sys2Proof.Machine.execPredM3 l t tr tl s
  | .predM4 l t tr tl => Sys2Proof.Machine.execPredM4 l t tr tl s
  | .predM5 l t tr tl => Sys2Proof.Machine.execPredM5 l t tr tl s
  | .predM6 l t tr tl => Sys2Proof.Machine.execPredM6 l t tr tl s
  | .predM7 l t tr tl => Sys2Proof.Machine.execPredM7 l t tr tl s
  | .predM8 l t tr tl => Sys2Proof.Machine.execPredM8 l t tr tl s
  | .predM9 l t tr tl => Sys2Proof.Machine.execPredM9 l t tr tl s
  | .predM10 l t tr tl => Sys2Proof.Machine.execPredM10 l t tr tl s
  | .predM11 l t tr tl => Sys2Proof.Machine.execPredM11 l t tr tl s
  | .predM12 l t tr tl => Sys2Proof.Machine.execPredM12 l t tr tl s
  | .predM13 l t tr tl => Sys2Proof.Machine.execPredM13 l t tr tl s
  | .predM14 l t tr tl => Sys2Proof.Machine.execPredM14 l t tr tl s
  | .predM15 l t tr tl => Sys2Proof.Machine.execPredM15 l t tr tl s
  | .brRead n => Sys2Proof.Machine.execBrRead n s
  | .brPeek n => Sys2Proof.Machine.execBrPeek n s
  | .brFill => Sys2Proof.Machine.execBrFill s
  | .brEos => Sys2Proof.Machine.execBrEos s
  | .brAdvance n => Sys2Proof.Machine.execBrAdvance n s
  | .huffDecode c => Sys2Proof.Machine.execHuffDecode c s
  | .groupSelect x y => Sys2Proof.Machine.execGroupSelect x y s
  | .ccInsert v => Sys2Proof.Machine.execCcInsert v s
  | .ccLookup key => Sys2Proof.Machine.execCcLookup key s
  | .invPred bits data => Sys2Proof.Machine.execInvPred bits data s
  | .invXcolor bits data => Sys2Proof.Machine.execInvXcolor bits data s
  | .invSubgreen => Sys2Proof.Machine.execInvSubgreen s
  | .paletteExpand pal wb => Sys2Proof.Machine.execPaletteExpand pal wb s
  | .invCindex w wb pal => Sys2Proof.Machine.execInvCindex w wb pal s
  | .hostStart => Sys2Proof.Machine.execHostStart s
  | .sinkAlloc w h => Sys2Proof.Machine.execSinkAlloc w h s
  | .sinkSet x y p => Sys2Proof.Machine.execSinkSet x y p s

end Sys2Proof.Machine
end

