-- ==== Sys2Proof/Machine/Sequencer.lean ====
section
/-! DEFINITION. The sequencer: which move the machine makes next (spec/41_stream_structure.md R140, spec/45_sequencer.md).
A move is an access of the host, an internal operation already issued, the next element of the stream, or a turn of
the control flow that no element makes (the end of an image, a batch of rows, the end of the job). -/

namespace Sys2Proof.Machine

/-! ## Fetching an element -/

/-- What the grammar admits at the current position (spec/30_encoding.md R82). -/
def fetchCtx (s : State) : Option Ctx :=
  match s.stage with
  | .header => some .header
  | .xform => some .xform
  | .ccache => some .ccache
  | .metaBit => some .metaBit
  | .hcode => some .hcode
  | .maxsym _ => some .maxsym
  | .token cl _ _ _ => some (.token cl)
  | .pixel =>
    match curImg s with
    | none => none
    | some m =>
      match pixelCodes m with
      | none => none
      | some (green, red, blue, alpha, dist) => some (.pixel green red blue alpha dist)
  | .idle | .palette | .finish => none

/-- Decode the element at the cursor and execute it (R140: control only moves forward through the grammar). -/
def runElement (s : State) : Out :=
  match fetchCtx s with
  | none => .fault .noContext
  | some c =>
    match decode c (window s) with
    | .ok i => exec i s
    | .error _ => .fault .noCodeword

/-! ## The end of an image -/

/-- `NGROUPS`: one more than the largest index (spec/41_stream_structure.md R155, R157). -/
def groupCount (idx : List Nat) : Nat := idx.foldl max 0 + 1

/-- The meta image reduced to its group indexes (R155, R162). -/
def metaMap (m : Img) (mb : Nat) (pix : List Word) : MetaMap :=
  { bits := mb, xs := subSize m.xs mb, idx := pix.map groupIndex }

/-- A complete transform sub-image becomes its record's data, and the transform list goes on (R145, R146;
spec/20_memory.md R63). -/
def endTransform (t : Xform) (s : State) : State :=
  { pushXform t s with nested := none, stage := .xform }

/-- A nested image is complete: its pixels are what it was decoded for (spec/20_memory.md R63;
spec/41_stream_structure.md R145, R146, R148, R155, R161). -/
def endSubImage (n : Nested) (s : State) : Out :=
  match n.use with
  | .predictor bits =>
    .next (endTransform { kind := .predictor, xsize := s.xsize, bits := bits, data := n.img.pix } s)
  | .crossColour bits =>
    .next (endTransform { kind := .crossColour, xsize := s.xsize, bits := bits, data := n.img.pix } s)
  | .palette wb => .next { s with stage := .palette, ops := s.ops ++ [.paletteExpand n.img.pix wb] }
  | .groupMap mb =>
    match s.img0 with
    | none => .fault .noContext
    | some m =>
      let mt := metaMap m mb n.img.pix
      .next (beginCodes { m with mt := mt, ngroups := groupCount mt.idx } s)

/-- The palette is expanded: its record joins the list and the coded width shrinks (R148; spec/10_state.md R34). -/
def endPalette (s : State) : Out :=
  match s.nested with
  | some { use := .palette wb, img := _ } =>
    .next { endTransform { kind := .colourIndexing, xsize := s.xsize, bits := wb, data := s.res.palette } s with
      xsize := subSize s.xsize wb }
  | _ => .fault .noContext

/-- EndCheck, then FINISH (R140, R158). -/
def endLevel0 (s : State) : Out :=
  if isEos s then abort .unexpectedEndOfStream s else .next { s with phase := .finish, stage := .finish }

/-! ## Row emission -/

/-- `ROW_BATCH` (spec/00_scope.md R6). -/
def rowBatch : Nat := 16

/-- The rows `0 .. y1 − 1` of the coded image enter the transform pipeline, to emit rows `y0 .. y1 − 1`
(spec/45_sequencer.md R313; log 23). -/
def beginBatch (y0 y1 : Nat) (m : Img) (s : State) : State :=
  { s with
    work := { w := m.xs, h := y1, pix := m.pix.take (m.xs * y1) }
    ops := s.ops ++ inverseOps s.xfs
    emit := .inverting y0 y1 }

/-- The SINK_SETs of rows `y0 .. y1 − 1`, in raster order (R313; spec/20_memory.md R71). -/
def rowSets (w y0 y1 : Nat) (pix : List Word) : List Instr :=
  (List.range (y1 - y0)).flatMap fun dy =>
    (List.range w).map fun x => .sinkSet x (y0 + dy) (pixAt pix ((y0 + dy) * w + x))

/-- The pixel loop of an image (spec/43_pixel_stream.md R220): at level 0 a complete batch of rows goes out first
(R312's pseudocode and R314's corner case, which emit a 16-row image here, against R312's corner case, which does not:
DEDUCED, log 30); then the next element, or the end of the image. -/
def pixelMove (s : State) : Out :=
  match curImg s with
  | none => .fault .noContext
  | some m =>
    if m.level0 && s.rowsEmitted + rowBatch ≤ s.rowsDone then
      .next (beginBatch s.rowsEmitted (s.rowsEmitted + rowBatch) m s)
    else if m.pos < m.size then runElement s
    else
      match s.nested with
      | some n => endSubImage n s
      | none => endLevel0 s

/-- Finish (spec/45_sequencer.md R314): the rows not yet emitted, then the end of the job. -/
def finishMove (s : State) : Out :=
  if s.rowsEmitted < s.hdr.h then
    match s.img0 with
    | none => .fault .noContext
    | some m => .next (beginBatch s.rowsEmitted s.hdr.h m s)
  else .next (finishJob s)

/-- The move of a running job with no internal operation to run. -/
def sequence (s : State) : Out :=
  match s.emit with
  | .inverting y0 y1 =>
    .next { s with ops := s.ops ++ rowSets s.hdr.w y0 y1 s.work.pix, emit := .sinking y1 }
  | .sinking y1 => .next { s with rowsEmitted := y1, emit := .off }
  | .off =>
    match s.stage with
    | .pixel => pixelMove s
    | .palette => endPalette s
    | .finish => finishMove s
    | .idle | .header | .xform | .ccache | .metaBit | .hcode | .maxsym _ | .token _ _ _ _ => runElement s

/-! ## The machine's moves -/

/-- The core's move: the next internal operation issued, else the sequencer's move, else, with no job running, nothing
(spec/60_exceptions.md R358). -/
def coreMove (s : State) : Out :=
  match s.ops with
  | i :: rest => exec i { s with ops := rest }
  | [] => if s.phase.running then sequence s else .next s

/-- An access of the host (log 1). A CTRL write that decodes to HOST_START executes it; any other has no effect
(spec/10_state.md R21). -/
def hostMove (a : HostAct) (s : State) : Out :=
  match a with
  | .pass => coreMove s
  | .write .ctrl v =>
    match decodeCtrl v with
    | .ok i => exec i s
    | .error _ => .next s
  | .write r v => .next (writeReg r v s)
  | .writeIn a b => .next (writeIn a b s)
  | .reset => .next (hardReset s)

/-- One move of the machine: the host's next access if it has one, else the core's. -/
def move (s : State) : Out :=
  match s.host with
  | [] => coreMove s
  | a :: rest => hostMove a { s with host := rest }

/-! ## Placing an element (log 12) -/

/-- The 8 bytes of a table word, the first byte first. -/
def tableBytes (bits : Nat) : List Byte := (List.range 8).map fun k => BitVec.ofNat 8 (bits >>> (8 * k))

/-- The phase and the grammar position of a context, for an image of one pixel at level 0. -/
def positionOf (c : Ctx) : Phase × Stage :=
  match c with
  | .header => (.header, .header)
  | .xform => (.xform, .xform)
  | .ccache => (.ccache, .ccache)
  | .metaBit => (.metaCfg, .metaBit)
  | .hcode => (.codes, .hcode)
  | .maxsym => (.codes, .maxsym (onlyToken 0))
  | .token cl => (.codes, .token cl [] 280 8)
  | .pixel _ _ _ _ _ => (.pixels, .pixel)

/-- The level-0 context the position needs. -/
def imageOf (c : Ctx) : Option Img :=
  match c with
  | .header | .xform => none
  | .ccache | .metaBit | .hcode | .maxsym | .token _ => some (freshImg 1 1 true)
  | .pixel green red blue alpha dist => some { freshImg 1 1 true with codes := [green, red, blue, alpha, dist] }

/-- The table word's bits stand in `IN` from offset 0, the cursor is at 0, and a running job is at the word's grammar
position. -/
def placeElement (c : Ctx) (bits : Nat) (s : State) : State :=
  { s with
    host := [], ops := [], emit := .off, nested := none, inFree := none
    inMem := s.inMem.writeBytes 0 (tableBytes bits), inLen := 8, pos := 0
    status := statusBusy, phase := (positionOf c).1, stage := (positionOf c).2, img0 := imageOf c }

/-- An internal operation stands next in the queue. -/
def placeOp (i : Instr) (s : State) : State := { s with host := [], ops := [i] }

end Sys2Proof.Machine
end

