-- ==== Sys2Proof/Machine/Step.lean ====
section
/-! DEFINITION. One step of the machine, and where a table word is placed for the next step to run it. -/

namespace Sys2Proof.Machine

/-- One step: one access of the host, one internal operation, one element or one turn of the control flow (log 6). -/
def step (s : State) : Host.Outcome State Fault Refusal := move s

/-- `s` with a table word placed where the next step takes its instruction from (log 12): a stream element in `IN` at
the cursor, at its grammar position; an internal operation in the queue. -/
def State.withFetchWord (s : State) (nbits w : Nat) : State :=
  match tableRead nbits w with
  | .stream c => placeElement c (tableBits nbits w) s
  | .predMode => placeOp (decodePred (BitVec.ofNat 32 (tableBits nbits w)) 0 0 0 0) s
  | .bitRead => placeOp (.brRead (tableBits nbits w)) s

end Sys2Proof.Machine
end

