-- ==== Sys2Proof/Safety.lean ====
section
/-! DEFINITION. What counts as a safe run: the invariants of the machine, each a check on a state, and the outcomes a
step may have. -/

namespace Sys2Proof.Machine

/-! ## Host-visible registers -/

/-- STATUS says what PHASE is (spec/10_state.md R24, R30): BUSY exactly while a job runs, and at most one of BUSY,
DONE and ERROR. -/
def statusOk (s : State) : Bool :=
  match s.phase with
  | .idle => s.status == 0
  | .done => s.status == statusDone
  | .error =>
    [Failure.malformedHeader, .invalidTransform, .invalidColorCacheBits, .invalidHuffmanCode, .corruptBackreference,
      .unexpectedEndOfStream].any fun k => s.status == statusFailed k
  | .header | .xform | .ccache | .metaCfg | .codes | .pixels | .finish => s.status == statusBusy

/-- The reserved bits of EXPECT read 0 (spec/10_state.md R23), and INFO's VERSION is 0 (R25). -/
def registersOk (s : State) : Bool :=
  s.expect.extractLsb' 28 3 == 0 && s.info.extractLsb' 29 3 == 0

/-! ## Image contexts -/

/-- The tiles of a meta image (spec/10_state.md R37): one index per tile, each below NGROUPS. -/
def mapOk (m : Img) : Bool :=
  m.mt.bits == 0 ||
    (m.level0 && m.mt.xs == subSize m.xs m.mt.bits && m.mt.idx.length == m.mt.xs * subSize m.ys m.mt.bits
      && m.mt.idx.all (· < m.ngroups))

/-- `META.XS = SUB(IMG.XS, META.BITS)`, with and without a meta image (spec/10_state.md R37). -/
def mapWidthOk (m : Img) : Bool := m.mt.xs == subSize m.xs m.mt.bits

/-- The codes of an image (spec/10_state.md R38): at most five a group, each valid and over its own alphabet. -/
def codesOk (m : Img) : Bool :=
  m.codes.length ≤ 5 * m.ngroups &&
    m.codes.zipIdx.all fun ci => validCode ci.1 && ci.1.length == alphabetSize m.cc.bits (ci.2 % 5)

/-- An image context (spec/10_state.md R35 to R39). -/
def imgOk (m : Img) : Bool :=
  m.cc.bits ≤ 11 && m.cc.arr.length == cacheSize m.cc.bits && 1 ≤ m.ngroups && mapWidthOk m && mapOk m
    && codesOk m    && m.pix.length ≤ m.size

/-- What the context being decoded holds at a grammar position (spec/30_encoding.md R82). -/
def stageOk (m : Img) (st : Stage) : Bool :=
  match st with
  | .ccache | .metaBit => m.codes.isEmpty && m.pix.isEmpty
  | .hcode => m.codes.length < 5 * m.ngroups && m.pix.isEmpty
  | .maxsym cl => m.codes.length < 5 * m.ngroups && m.pix.isEmpty && validCode cl && cl.length == 19
  | .token cl lens left _ =>
    m.codes.length < 5 * m.ngroups && m.pix.isEmpty && validCode cl && cl.length == 19
      && lens.length < nextAlphabet m && left != 0
  | .pixel => m.codes.length == 5 * m.ngroups
  | .palette | .finish => m.codes.length == 5 * m.ngroups && m.pix.length == m.size
  | .idle | .header | .xform => false

/-- A nested image: not level 0, one group, well formed at the position (spec/41_stream_structure.md R151). -/
def nestedOk (n : Nested) (st : Stage) : Bool :=
  !n.img.level0 && n.img.ngroups == 1 && imgOk n.img && stageOk n.img st

/-- The level-0 image: of the coded size (spec/41_stream_structure.md R150), well formed. -/
def level0Ok (s : State) (m : Img) : Bool :=
  m.level0 && m.xs == s.xsize && m.ys == s.hdr.h && imgOk m

/-- A transform's sub-image is of that transform, and a palette's alone waits for PALETTE_EXPAND. -/
def useOk (u : SubUse) (st : Stage) : Bool :=
  match u with
  | .predictor _ | .crossColour _ => st != .palette && st != .finish && st != .metaBit
  | .palette _ => st != .finish && st != .metaBit
  | .groupMap _ => false

/-- The meta image has one pixel per tile of the level-0 image (spec/41_stream_structure.md R155). -/
def groupMapOk (m : Img) (n : Nested) (st : Stage) : Bool :=
  match n.use with
  | .groupMap mb =>
    mb != 0 && n.img.xs == subSize m.xs mb && n.img.ys == subSize m.ys mb
      && st != .palette && st != .finish && st != .metaBit
  | .predictor _ | .crossColour _ | .palette _ => false

/-- PHASE, the grammar position and the contexts agree (spec/41_stream_structure.md R140, R159): at most level 0 and
one nested image exist, and only where the job needs them. -/
def positionOk (s : State) : Bool :=
  match s.phase, s.img0, s.nested with
  | .idle, none, none | .done, none, none | .error, none, none =>
    s.stage == .idle && s.ops.isEmpty && s.emit == .off && s.xfs.isEmpty
  | .header, none, none => s.stage == .header && s.xfs.isEmpty && s.seen == 0
  | .xform, none, none => s.stage == .xform
  | .xform, none, some n => nestedOk n s.stage && useOk n.use s.stage
  | .ccache, some m, none => level0Ok s m && s.stage == .ccache && stageOk m s.stage
  | .metaCfg, some m, none => level0Ok s m && s.stage == .metaBit && stageOk m s.stage
  | .metaCfg, some m, some n =>
    level0Ok s m && stageOk m .metaBit && nestedOk n s.stage && groupMapOk m n s.stage
  | .codes, some m, none =>
    level0Ok s m && stageOk m s.stage
      && (match s.stage with | .hcode | .maxsym _ | .token _ _ _ _ => true | _ => false)
  | .pixels, some m, none => level0Ok s m && s.stage == .pixel && stageOk m s.stage
  | .finish, some m, none => level0Ok s m && s.stage == .finish && stageOk m s.stage
  | _, _, _ => false

/-! ## Transforms -/

/-- The type of the record a nested image is decoded for. -/
def pendingKind (n : Option Nested) : List XKind :=
  match n with
  | some { use := .predictor _, img := _ } => [.predictor]
  | some { use := .crossColour _, img := _ } => [.crossColour]
  | some { use := .palette _, img := _ } => [.colourIndexing]
  | some { use := .groupMap _, img := _ } => []
  | none => []

/-- The types read so far, in stream order. -/
def kindsRead (s : State) : List XKind := s.xfs.map (·.kind) ++ pendingKind s.nested

/-- Each transform type is read at most once, and XF.SEEN marks every one read (spec/10_state.md R32, R33). -/
def transformsOk (s : State) : Bool :=
  (kindsRead s).all (wasSeen s.seen) && decide (kindsRead s).Nodup

/-- The coded width after the records `xfs` of a `w`-wide image, if each recorded the width it was read at
(spec/44_transforms.md R261). -/
def widthAfter (w : Nat) : List Xform → Option Nat
  | [] => some w
  | t :: ts =>
    if t.xsize = w then
      widthAfter (if t.kind = .colourIndexing then subSize w t.bits else w) ts
    else none

/-- After the header XSIZE is the header's width as the records read so far have changed it (R261; spec/10_state.md
R34). -/
def widthsOk (s : State) : Bool :=
  match s.phase with
  | .idle | .header | .done | .error => true
  | .xform | .ccache | .metaCfg | .codes | .pixels | .finish => widthAfter s.hdr.w s.xfs == some s.xsize

/-! ## Operations and the sink -/

/-- The operations the sequencer issues (spec/45_sequencer.md R311, R313; spec/41_stream_structure.md R148). -/
def isIssued (i : Instr) : Bool :=
  match i with
  | .sinkAlloc _ _ | .sinkSet _ _ _ | .invPred _ _ | .invXcolor _ _ | .invSubgreen | .invCindex _ _ _
  | .paletteExpand _ _ => true
  | _ => false

/-- An inverse transform. -/
def isInverse (i : Instr) : Bool :=
  match i with
  | .invPred _ _ | .invXcolor _ _ | .invSubgreen | .invCindex _ _ _ => true
  | _ => false

/-- The position a SINK_SET writes. -/
def setPosition? (i : Instr) : Option (Nat × Nat) :=
  match i with
  | .sinkSet x y _ => some (x, y)
  | _ => none

/-- The positions of the first `rows` rows of a `w`-wide image, in raster order (spec/20_memory.md R71). -/
def raster (w rows : Nat) : List (Nat × Nat) :=
  (List.range rows).flatMap fun y => (List.range w).map fun x => (x, y)

/-- The positions set since the sink was allocated, in call order. -/
def Sink.positions (k : Sink) : List (Nat × Nat) := k.sets.map fun q => (q.x, q.y)

/-- The rows whose SINK_SETs have been issued. -/
def rowsIssued (s : State) : Nat :=
  match s.emit with
  | .off | .inverting _ _ => s.rowsEmitted
  | .sinking y1 => y1

/-- The batch in emission starts at ROWS_EMITTED and ends inside the image (spec/45_sequencer.md R312 to R314), and
what is left of it is of its kind. -/
def batchOk (s : State) : Bool :=
  match s.emit with
  | .off => s.ops.isEmpty
  | .inverting y0 y1 => y0 == s.rowsEmitted && y0 < y1 && y1 ≤ s.hdr.h && s.ops.all isInverse
  | .sinking y1 => s.rowsEmitted < y1 && y1 ≤ s.hdr.h && s.ops.all fun i => (setPosition? i).isSome

/-- INFO holds the dimensions of the header accepted (spec/10_state.md R25). -/
def infoOk (s : State) : Bool :=
  s.hdr.w == (s.info.extractLsb' 0 14).toNat + 1 && s.hdr.h == (s.info.extractLsb' 14 14).toNat + 1

/-- The size INFO gives the sink. -/
def infoSize (s : State) : Nat × Nat × Nat :=
  ((s.info.extractLsb' 0 14).toNat + 1, (s.info.extractLsb' 14 14).toNat + 1, 4)

/-- The sink while a job writes it and after one has finished: allocated once with the header's size, before any pixel
is set (spec/45_sequencer.md R311), every pixel set once and in raster order (spec/20_memory.md R71), the pixels still
to be set being the next ones. After a job the size is the one INFO shows. -/
def sinkOk (s : State) : Bool :=
  match s.phase with
  | .pixels | .finish =>
    infoOk s && decide (s.rowsDone ≤ s.hdr.h) && decide (s.rowsEmitted ≤ s.hdr.h) &&
    ((s.ops == [.sinkAlloc s.hdr.w s.hdr.h] && s.emit == .off && s.rowsEmitted == 0 && s.rowsDone == 0)
      || (s.sink.size == some (s.hdr.w, s.hdr.h, 4) && batchOk s
        && s.sink.positions ++ s.ops.filterMap setPosition? == raster s.hdr.w (rowsIssued s)))
  | .done =>
    s.sink.whole && s.sink.size == some (infoSize s)
      && s.sink.positions == raster (infoSize s).1 (infoSize s).2.1
  | .header => s.rowsDone == 0 && s.rowsEmitted == 0 && s.emit == .off && s.ops.isEmpty
  | .ccache | .metaCfg | .codes =>
    infoOk s && s.rowsDone == 0 && s.rowsEmitted == 0 && s.emit == .off && s.ops.isEmpty
  | .xform => infoOk s && s.rowsDone == 0 && s.rowsEmitted == 0 && s.emit == .off
  | .idle | .error => true

/-! ## The colour cache -/

/-- The cache of an image holds its pixels inserted in the order written (spec/43_pixel_stream.md R234). -/
def cacheInOrder (m : Img) : Bool :=
  m.cc.bits == 0 ||
    m.cc.arr == m.pix.foldl (fun arr v => arr.set (hash v m.cc.bits) v) (List.replicate (2 ^ m.cc.bits) 0)

/-- `cacheInOrder` of every live context. -/
def cachesOk (s : State) : Bool :=
  (match s.img0 with | some m => cacheInOrder m | none => true)
    && (match s.nested with | some n => cacheInOrder n.img | none => true)

/-! ## The inverse pipeline -/

/-- One step of InvertAll (spec/44_transforms.md R260). -/
def applyInverse (k : WorkImg) (t : Xform) : WorkImg :=
  match t.kind with
  | .predictor => { k with pix := invPred k.w t.bits t.data k.pix }
  | .crossColour => { k with pix := invXcolor k.w t.bits t.data k.pix }
  | .subtractGreen => { k with pix := k.pix.map subgreenPixel }
  | .colourIndexing => { k with w := t.xsize, pix := invCindex k.w t.xsize k.h t.bits t.data k.pix }

/-- InvertAll: the transforms inverted in the reverse of the order they were read (R260). -/
def invertAll (xfs : List Xform) (k : WorkImg) : WorkImg := xfs.reverse.foldl applyInverse k

/-! ## Where the machine stands -/

/-- The next move is a stream element: no host access and no operation is waiting, a job runs, no batch is in
emission, and at a pixel position the image has pixels left and no complete batch to emit (spec/45_sequencer.md R312;
spec/43_pixel_stream.md R220). -/
def atElement (s : State) : Bool :=
  s.host.isEmpty && s.ops.isEmpty && s.phase.running && s.emit == .off && s.stage != .palette && s.stage != .finish
    && (s.stage != .pixel ||
      match curImg s with
      | some m => m.pos < m.size && !(m.level0 && s.rowsEmitted + rowBatch ≤ s.rowsDone)
      | none => false)

/-- The next move is the sequencer's: no host access and no operation is waiting, a job runs. -/
def atTurn (s : State) : Bool := s.host.isEmpty && s.ops.isEmpty && s.phase.running

/-- A stream element (spec/30_encoding.md R80). -/
def isElement (i : Instr) : Bool :=
  match i with
  | .hdr _ _ _ _ _ | .xformEnd | .xformPred _ | .xformXcolor _ | .xformSubgreen | .xformCindex _
  | .ccacheOff | .ccacheOn _ | .metaOff | .metaOn _
  | .hcodeS1b1 _ | .hcodeS1b8 _ | .hcodeS2b1 _ _ | .hcodeS2b8 _ _ | .hcodeNormal _ _
  | .maxsymOff | .maxsymOn _ _ | .clLit _ | .clRep16 _ | .clZero17 _ | .clZero18 _
  | .pxLiteral _ _ _ _ | .pxBackref _ _ _ _ | .pxCache _ => true
  | _ => false

/-- An internal operation (format INTERNAL of spec/opcode_table.json), or a predictor mode: neither a stream element nor
the host's START. -/
def isOperation (i : Instr) : Bool := !isElement i && i != .hostStart

/-- The operations that consume stream bits (spec/40_bit_reader.md R120, R124; spec/42_huffman.md R199). -/
def consumesBits (i : Instr) : Bool :=
  match i with
  | .brRead _ | .brAdvance _ | .huffDecode _ => true
  | _ => false

/-- The operations that return a result (log 9). -/
def returnsResult (i : Instr) : Bool :=
  match i with
  | .predM0 _ _ _ _ | .predM1 _ _ _ _ | .predM2 _ _ _ _ | .predM3 _ _ _ _ | .predM4 _ _ _ _ | .predM5 _ _ _ _
  | .predM6 _ _ _ _ | .predM7 _ _ _ _ | .predM8 _ _ _ _ | .predM9 _ _ _ _ | .predM10 _ _ _ _
  | .predM11 _ _ _ _ | .predM12 _ _ _ _ | .predM13 _ _ _ _ | .predM14 _ _ _ _ | .predM15 _ _ _ _
  | .brRead _ | .brPeek _ | .brEos | .huffDecode _ | .groupSelect _ _ | .ccLookup _ | .paletteExpand _ _ => true
  | _ => false

/-- The operations on the sink. -/
def isSinkCall (i : Instr) : Bool :=
  match i with
  | .sinkAlloc _ _ | .sinkSet _ _ _ => true
  | _ => false

/-- The transform elements that name a type (spec/30_encoding.md R84). -/
def namedXform? (i : Instr) : Option XKind :=
  match i with
  | .xformPred _ => some .predictor
  | .xformXcolor _ => some .crossColour
  | .xformSubgreen => some .subtractGreen
  | .xformCindex _ => some .colourIndexing
  | _ => none

/-- The header element. -/
def isHeader (i : Instr) : Bool :=
  match i with
  | .hdr _ _ _ _ _ => true
  | _ => false

/-- The pixel-stream elements (spec/30_encoding.md R89). -/
def isPixelElement (i : Instr) : Bool :=
  match i with
  | .pxLiteral _ _ _ _ | .pxBackref _ _ _ _ | .pxCache _ => true
  | _ => false

/-- The elements of a prefix code (spec/30_encoding.md R87, R88). -/
def isCodeElement (i : Instr) : Bool :=
  match i with
  | .hcodeS1b1 _ | .hcodeS1b8 _ | .hcodeS2b1 _ _ | .hcodeS2b8 _ _ | .hcodeNormal _ _ | .maxsymOff | .maxsymOn _ _
  | .clLit _ | .clRep16 _ | .clZero17 _ | .clZero18 _ => true
  | _ => false

/-- The elements that check for a failure kind (spec/60_exceptions.md R342 to R347). -/
def mayRaise (k : Failure) (i : Instr) : Bool :=
  match k with
  | .malformedHeader => isHeader i
  | .invalidTransform => (namedXform? i).isSome
  | .invalidColorCacheBits => match i with | .ccacheOn c => c == 0 || 12 ≤ c.toNat | _ => false
  | .invalidHuffmanCode => isCodeElement i && i != .maxsymOff
  | .corruptBackreference => match i with | .pxBackref _ _ _ _ => true | _ => false
  | .unexpectedEndOfStream =>
    isHeader i || isPixelElement i
      || match i with
         | .hcodeS1b1 _ | .hcodeS1b8 _ | .hcodeS2b1 _ _ | .hcodeS2b8 _ _
         | .clLit _ | .clRep16 _ | .clZero17 _ | .clZero18 _ => true
         | _ => false

/-- The window begins, at `off`, with the bits `bs`. -/
def startsWith (rd : Window) (off : Nat) (bs : List Bool) : Prop :=
  ∀ k < bs.length, rd (off + k) = windowOfBits bs k

/-- The state with another alpha hint, in the header register and in bit 28 of INFO (spec/10_state.md R25, R31). -/
def withAlpha (a : BitVec 1) (s : State) : State :=
  { s with hdr := { s.hdr with alpha := a }, info := s.info.extractLsb' 29 3 ++ a ++ s.info.extractLsb' 0 28 }

/-- An outcome with its next state changed. -/
def mapNext (f : State → State) (o : Out) : Out :=
  match o with
  | .next t => .next (f t)
  | .fault r => .fault r
  | .refused r => .refused r

/-! ## The invariant -/

/-- The invariant of the control state: the input memory's canonical form, STATUS against PHASE, the reserved bits,
the grammar position against the contexts, the transform list, the operations issued. -/
abbrev Inv (s : State) : Prop :=
  s.inMem.wf = true ∧ statusOk s = true ∧ registersOk s = true ∧ positionOk s = true ∧ transformsOk s = true
    ∧ s.ops.all isIssued = true

/-- What a failure of kind `k` leaves, raised `n` bits after the cursor of `s` (spec/60_exceptions.md R340, R348;
spec/45_sequencer.md R318): PHASE and STATUS say so, BITPOS is where it was raised, INFO is as the header left it, every
context and record is gone, and `IN`, `IN_LEN`, `EXPECT` and the pixels already in the sink stay. -/
def endsJob (k : Failure) (n : Nat) (s : State) (o : Out) : Prop :=
  ∃ t, o = .next t ∧ t.phase = .error ∧ t.status = statusFailed k ∧ t.pos = s.pos + n ∧ t.info = s.info
    ∧ t.img0 = none ∧ t.nested = none ∧ t.xfs = [] ∧ t.ops = [] ∧ t.stage = .idle
    ∧ t.inMem = s.inMem ∧ t.inLen = s.inLen ∧ t.expect = s.expect ∧ t.params = s.params ∧ t.host = s.host
    ∧ t.sink.sets = s.sink.sets ∧ t.sink.size = s.sink.size ∧ t.sink.whole = false

/-- A step goes on, or refuses for capacity alone (spec/45_sequencer.md R320). -/
def goesOn (o : Out) : Bool :=
  match o with
  | .next _ => true
  | .fault _ => false
  | .refused .inputTooLong | .refused .imageTooLarge => true
  | .refused _ => false

end Sys2Proof.Machine
end

