-- ==== Sys2Proof/Certificates/Slice0/Obligations.lean ====
section
/-! DEFINITION. The statements for the provers. Each docstring names the rules it formalises; `endsJob k n s o` says
that the outcome `o` is the failure `k`, raised `n` bits after the cursor of `s` (Safety.lean). -/

open Sys2Proof Sys2Proof.Machine

/-! ## Encodings and prefix codes -/

/-- R82 to R92: a well-formed element the context admits decodes, from any window that begins with its encoding, to
itself with every operand. -/
def Obligations.DecodeEncodeAgree : Prop :=
  ∀ (c : Ctx) (i : Instr) (rd : Window), i.wf = true → c.admits i = true → startsWith rd 0 (encode c i) →
    decode c rd = .ok i

/-- R198: in a code of two or more symbols every bit sequence begins with the codeword of exactly one symbol, which
Decode returns after at most 15 bits; the bits of a symbol's codeword decode to that symbol and take its length; no
codeword is a prefix of another's. -/
def Obligations.PrefixProperty : Prop :=
  ∀ (L : Code), validCode L = true → 2 ≤ codeSymbols L →
    (∀ (rd : Window) (off : Nat), ∃ s, decodeSymbol L rd off = some (s, L.getD s 0) ∧ s < L.length
      ∧ 1 ≤ L.getD s 0 ∧ L.getD s 0 ≤ 15 ∧ startsWith rd off (encodeSymbol L s)) ∧
    (∀ (rd : Window) (off s : Nat), hasSymbol L s = true → startsWith rd off (encodeSymbol L s) →
      decodeSymbol L rd off = some (s, L.getD s 0)) ∧
    (∀ s1 s2, hasSymbol L s1 = true → hasSymbol L s2 = true → encodeSymbol L s1 <+: encodeSymbol L s2 → s1 = s2)

/-- R197: a symbol's codeword is the first one of its length (the counts of the shorter lengths, doubled at each length
transition) plus the number of earlier symbols of that length; so codewords of one length are consecutive in symbol
order, and a shorter codeword, left-aligned, is below every longer one. -/
def Obligations.CanonicalCodewords : Prop :=
  ∀ (L : Code) (s : Nat), validCode L = true → 2 ≤ codeSymbols L → hasSymbol L s = true →
    codeword L s =
      ((List.range (L.getD s 0)).map fun l => if l = 0 then 0 else L.count l * 2 ^ (L.getD s 0 - l)).sum
        + (L.take s).count (L.getD s 0) ∧
    codeword L s < 2 ^ L.getD s 0 ∧
    ∀ s', hasSymbol L s' = true → L.getD s 0 < L.getD s' 0 →
      (codeword L s + 1) * 2 ^ (L.getD s' 0 - L.getD s 0) ≤ codeword L s'

/-- R194, R195, R196: BuildCode accepts exactly the length arrays with no length over 15 and either one non-zero length
or two or more that fill the tree, and fails with InvalidHuffmanCode on any other; a code with one non-zero length
decodes to its symbol and consumes nothing. -/
def Obligations.BuildCodeChecks : Prop :=
  ∀ (L : Code),
    let present := L.filter (· ≠ 0)
    let legal := (∀ l ∈ L, l ≤ 15) ∧
      (present.length = 1 ∨ (2 ≤ present.length ∧ (present.map fun l => 2 ^ (15 - l)).sum = 2 ^ 15))
    (∀ (m : Img) (s : State), s.pos ≤ 8 * s.inLen.toNat →
      (legal → finishCode L m s = .next (pushCode L m s)) ∧
      (¬ legal → endsJob .invalidHuffmanCode 0 s (finishCode L m s))) ∧
    (validCode L = true ↔ legal) ∧
    ∀ (s : Nat) (rd : Window) (off : Nat), present.length = 1 → L.getD s 0 ≠ 0 → decodeSymbol L rd off = some (s, 0)

/-- Words written out from the encoding strings of R83 to R89 decode to the elements they stand for: the headers of
V2.1 and V2.2, the transform bits `1 00 010`, `1 10 111`, `1 01`, `1 11 01000000` and `0`, the cache bits `1 0010`, the
meta bits `1 100`, the code headers `1 0 1 00101000` and `1 1 0 1 00000000`, the normal code of R186, the count of R188,
a token, a literal of four one-symbol codes. -/
def Obligations.DecodedWords : Prop :=
  decodeBytes .header [0x2F, 0x00, 0x00, 0x00, 0x10] = .ok (.hdr 0x2F 0 0 1 0) ∧
  decodeBytes .header [0x2F, 0x03, 0xC0, 0x00, 0x10] = .ok (.hdr 0x2F 3 3 1 0) ∧
  decodeBytes .xform [0b010001] = .ok (.xformPred 2) ∧
  decodeBytes .xform [0b111011] = .ok (.xformXcolor 7) ∧
  decodeBytes .xform [0b101] = .ok .xformSubgreen ∧
  decodeBytes .xform [0b00010111] = .ok (.xformCindex 2) ∧
  decodeBytes .xform [0b0] = .ok .xformEnd ∧
  decodeBytes .ccache [0b01001] = .ok (.ccacheOn 4) ∧
  decodeBytes .metaBit [0b0011] = .ok (.metaOn 1) ∧
  decodeBytes .hcode [0b10100101, 0b000] = .ok (.hcodeS1b8 20) ∧
  decodeBytes .hcode [0b1011, 0] = .ok (.hcodeS2b1 1 0) ∧
  decodeBytes .hcode [0x00, 0x41, 0x00] = .ok (.hcodeNormal 0 [0, 1, 0, 1]) ∧
  decodeBytes .maxsym [0b110001] = .ok (.maxsymOn 0 3) ∧
  decodeBytes (.token [2, 1, 3, 3, 0, 0, 0, 0, 0, 0, 0, 0, 0, 0, 0, 0, 0, 0, 0]) [0b011] = .ok (.clLit 2) ∧
  decodeBytes (.pixel [0, 1] [0, 0, 1] [0, 0, 0, 1] [1] [1]) [] = .ok (.pxLiteral 1 2 3 0)

/-- R93, R378: the bits at the cursor are the encoding of the element they decode to, and an element that does not end
the job advances the cursor by exactly the length of its encoding. -/
def Obligations.ConsumesExactlyItsEncoding : Prop :=
  ∀ (s : State) (c : Ctx) (i : Instr), Inv s → fetchCtx s = some c → decode c (window s) = .ok i →
    startsWith (window s) 0 (encode c i) ∧
    ∀ t, exec i s = .next t → t.phase ≠ .error → t.pos = s.pos + (encode c i).length

/-! ## The bit reader -/

/-- R61: bit `i` of the stream is bit `i & 7` of byte `i >> 3`, and 0 at or past `8 × LEN` (while the host has not
written `IN` during the job, R75). -/
def Obligations.StreamBits : Prop :=
  ∀ (s : State) (i : Nat), s.inFree = none →
    streamBit s i =
      (if i < 8 * s.inLen.toNat then decide (((s.inMem.read (i >>> 3)).toNat >>> (i &&& 7)) &&& 1 = 1) else false)

/-- R120 to R124: ReadBits returns the next `n` bits, the first one in bit 0, and consumes them; PeekBits returns them
and consumes none; FillBitWindow changes nothing; IsEOS says whether more bits were consumed than the input holds;
SkipBits consumes. Nothing else changes, and no failure is raised. -/
def Obligations.BitReader : Prop :=
  ∀ (s : State) (n : Nat),
    (n ≤ 24 → exec (.brRead n) s = .next { s with
      pos := s.pos + n,
      res := .value ((List.range n).map fun k => 2 ^ k * (streamBit s (s.pos + k)).toNat).sum }) ∧
    (n ≤ 24 → exec (.brPeek n) s = .next { s with
      res := .value ((List.range n).map fun k => 2 ^ k * (streamBit s (s.pos + k)).toNat).sum }) ∧
    exec .brFill s = .next s ∧
    exec .brEos s = .next { s with res := .value (if 8 * s.inLen.toNat < s.pos then 1 else 0) } ∧
    (n ≤ 15 → exec (.brAdvance n) s = .next { s with pos := s.pos + n })

/-- R60, R75: a host write of `IN` changes that byte and no other, and keeps the memory's canonical form; while no job
runs nothing else changes. While BUSY every bit the job reads inside its input from then on is a free value (the model's
form of "unspecified", log 7). -/
def Obligations.HostWritesInput : Prop :=
  ∀ (s : State) (a : BitVec 32) (b : Byte) (rest : List HostAct),
    s.host = .writeIn a b :: rest → s.inMem.wf = true →
    ∃ m : Memory, m.wf = true ∧ (∀ x, m.read x = if x = a.toNat then b else s.inMem.read x) ∧
      (isBusy s = false → step s = .next { s with host := rest, inMem := m }) ∧
      (isBusy s = true → ∃ t, step s = .next t ∧ t = { s with
          host := rest, inMem := m, inFree := some s.freeCtr, freeCtr := s.freeCtr + 1 } ∧
        ∀ i < 8 * s.inLen.toNat, streamBit t i = Config.freeStreamBit s.freeCtr i)

/-! ## The header and the failures -/

/-- R141, R142: the checks of HDR in their order (magic after 8 bits, version, end of stream, expected dimensions, each
after 40), and, when all pass, HDR, INFO and XSIZE. -/
def Obligations.HeaderElement : Prop :=
  ∀ (magic : BitVec 8) (w h : BitVec 14) (a : BitVec 1) (v : BitVec 3) (s : State), s.stage = .header →
    let expected := s.expect.getLsbD 31 = true →
      w.toNat = (s.expect.extractLsb' 0 14).toNat ∧ h.toNat = (s.expect.extractLsb' 14 14).toNat
    (magic ≠ 0x2F → endsJob .malformedHeader 8 s (exec (.hdr magic w h a v) s)) ∧
    (magic = 0x2F → v ≠ 0 → endsJob .malformedHeader 40 s (exec (.hdr magic w h a v) s)) ∧
    (magic = 0x2F → v = 0 → 8 * s.inLen.toNat < s.pos + 40 →
      endsJob .unexpectedEndOfStream 40 s (exec (.hdr magic w h a v) s)) ∧
    (magic = 0x2F → v = 0 → s.pos + 40 ≤ 8 * s.inLen.toNat → ¬ expected →
      endsJob .malformedHeader 40 s (exec (.hdr magic w h a v) s)) ∧
    (magic = 0x2F → v = 0 → s.pos + 40 ≤ 8 * s.inLen.toNat → expected →
      exec (.hdr magic w h a v) s = .next { s with
        pos := s.pos + 40
        hdr := { w := w.toNat + 1, h := h.toNat + 1, alpha := a, ver := 0 }
        info := (0 : BitVec 3) ++ a ++ h ++ w
        xsize := w.toNat + 1
        phase := .xform
        stage := .xform })

/-- R340, R341: Abort sets PHASE and STATUS, keeps BITPOS and INFO, discards the job's contexts and records, and the
core then waits: no later element is read. The six codes. -/
def Obligations.AbortSequence : Prop :=
  (∀ (k : Failure) (s : State), ∃ t, abort k s = .next t ∧ endsJob k 0 s (.next t) ∧
    step { t with host := [] } = .next { t with host := [] }) ∧
  statusFailed .malformedHeader = 0x14 ∧ statusFailed .invalidTransform = 0x24 ∧
  statusFailed .invalidColorCacheBits = 0x34 ∧ statusFailed .invalidHuffmanCode = 0x44 ∧
  statusFailed .corruptBackreference = 0x54 ∧ statusFailed .unexpectedEndOfStream = 0x64

/-- R342 to R347: an instruction that ends a job with a failure is one of the elements that check for that kind. R348:
nothing of a failed job but INFO, BITPOS and the sink (and the input, EXPECT and the model's own fields `params`,
`host`, `inFree`, `freeCtr`, logs 1, 4, 7) shows in what follows: two failures of a kind that agree on those are one
state. -/
def Obligations.FailuresComeFromTheirChecks : Prop :=
  (∀ (i : Instr) (s t : State), exec i s = .next t → s.phase ≠ .error → t.phase = .error →
    ∃ k, t.status = statusFailed k ∧ mayRaise k i = true ∧ endsJob k (t.pos - s.pos) s (.next t)) ∧
  ∀ (k : Failure) (s u : State),
    abort k { u with
      info := s.info, pos := s.pos, sink := s.sink, inMem := s.inMem, inLen := s.inLen, expect := s.expect
      params := s.params, host := s.host, inFree := s.inFree, freeCtr := s.freeCtr } = abort k s

/-! ## Transform records -/

/-- R143 to R149: each transform element of a type not yet read marks its type; XFORM_SUBGREEN appends its record,
and the others begin their sub-image (one value per tile of the coded image, or the palette in one row); XFORM_END
begins the level-0 image. Buffers of at most PIX_MAX pixels. What a fresh context holds beside its size and kind is the
model's (log 29). -/
def Obligations.TransformElements : Prop :=
  ∀ (s : State) (b : BitVec 3) (n : BitVec 8), s.stage = .xform →
    let up (x k : Nat) : Nat := (x + 2 ^ k - 1) / 2 ^ k
    let fresh (xs ys : Nat) (lvl : Bool) : Img :=
      { xs := xs, ys := ys, level0 := lvl, cc := ⟨0, []⟩, mt := ⟨0, xs, []⟩, ngroups := 1, codes := [], pix := [] }
    let k := b.toNat + 2
    (s.xsize * s.hdr.h ≤ s.params.pixMax →
      exec .xformEnd s = .next { s with
        pos := s.pos + 1, phase := .ccache, stage := .ccache, img0 := some (fresh s.xsize s.hdr.h true) }) ∧
    (s.seen.getLsbD 0 = false → up s.xsize k * up s.hdr.h k ≤ s.params.pixMax →
      exec (.xformPred b) s = .next { s with
        pos := s.pos + 6, seen := s.seen ||| 1, stage := .ccache,
        nested := some ⟨.predictor k, fresh (up s.xsize k) (up s.hdr.h k) false⟩ }) ∧
    (s.seen.getLsbD 1 = false → up s.xsize k * up s.hdr.h k ≤ s.params.pixMax →
      exec (.xformXcolor b) s = .next { s with
        pos := s.pos + 6, seen := s.seen ||| 2, stage := .ccache,
        nested := some ⟨.crossColour k, fresh (up s.xsize k) (up s.hdr.h k) false⟩ }) ∧
    (s.seen.getLsbD 2 = false →
      exec .xformSubgreen s = .next { s with
        pos := s.pos + 3, seen := s.seen ||| 4, xfs := s.xfs ++ [⟨.subtractGreen, s.xsize, 0, []⟩] }) ∧
    (s.seen.getLsbD 3 = false → n.toNat + 1 ≤ s.params.pixMax →
      ∃ wb, (wb = if n.toNat + 1 ≤ 2 then 3 else if n.toNat + 1 ≤ 4 then 2 else if n.toNat + 1 ≤ 16 then 1 else 0) ∧
        exec (.xformCindex n) s = .next { s with
          pos := s.pos + 11, seen := s.seen ||| 8, stage := .ccache,
          nested := some ⟨.palette wb, fresh (n.toNat + 1) 1 false⟩ })

/-- R144: a transform type read a second time fails the job just after its two type bits. -/
def Obligations.DuplicateTransformFails : Prop :=
  ∀ (s : State) (i : Instr) (k : XKind), s.stage = .xform → namedXform? i = some k →
    s.seen.getLsbD (match k with | .predictor => 0 | .crossColour => 1 | .subtractGreen => 2 | .colourIndexing => 3) =
      true →
    endsJob .invalidTransform 3 s (exec i s)

/-- R145, R146, R148, R63: a complete sub-image becomes the data of its record, which keeps the coded width it was read
at; the palette is expanded first, and the coded width shrinks to one pixel per 2^WB. -/
def Obligations.SubImageBecomesRecord : Prop :=
  ∀ (s : State) (n : Nested), s.host = [] → s.ops = [] → s.emit = .off → s.phase.running = true → s.stage = .pixel →
    s.nested = some n → n.img.level0 = false → n.img.pix.length = n.img.xs * n.img.ys →
    (∀ bits, n.use = .predictor bits → step s = .next { s with
      xfs := s.xfs ++ [⟨.predictor, s.xsize, bits, n.img.pix⟩], nested := none, stage := .xform }) ∧
    (∀ bits, n.use = .crossColour bits → step s = .next { s with
      xfs := s.xfs ++ [⟨.crossColour, s.xsize, bits, n.img.pix⟩], nested := none, stage := .xform }) ∧
    (∀ wb, n.use = .palette wb → Host.Core.run Sys2Proof.core 3 s = .next { s with
      xfs := s.xfs ++ [⟨.colourIndexing, s.xsize, wb, paletteTable n.img.pix wb⟩], nested := none, stage := .xform,
      xsize := (s.xsize + 2 ^ wb - 1) / 2 ^ wb, res := .pixels (paletteTable n.img.pix wb) })

/-- R310, R320: the model takes no step over its capacities: LEN over LEN_MAX at START, and an image context of more
than PIX_MAX pixels where it would be created (that it is checked there is log 5). -/
def Obligations.CapacityRefusals : Prop :=
  ∀ (s : State) (b : BitVec 3) (n : BitVec 8),
    let up (x : Nat) : Nat := (x + 2 ^ (b.toNat + 2) - 1) / 2 ^ (b.toNat + 2)
    (isBusy s = false → s.params.lenMax < s.inLen.toNat → exec .hostStart s = .refused .inputTooLong) ∧
    (s.stage = .xform → s.params.pixMax < s.xsize * s.hdr.h → exec .xformEnd s = .refused .imageTooLarge) ∧
    (s.stage = .xform → s.seen.getLsbD 0 = false → s.params.pixMax < up s.xsize * up s.hdr.h →
      exec (.xformPred b) s = .refused .imageTooLarge) ∧
    (s.stage = .xform → s.seen.getLsbD 1 = false → s.params.pixMax < up s.xsize * up s.hdr.h →
      exec (.xformXcolor b) s = .refused .imageTooLarge) ∧
    (s.stage = .xform → s.seen.getLsbD 3 = false → s.params.pixMax < n.toNat + 1 →
      exec (.xformCindex n) s = .refused .imageTooLarge) ∧
    (∀ m, s.stage = .metaBit → s.img0 = some m → s.params.pixMax < up m.xs * up m.ys →
      exec (.metaOn b) s = .refused .imageTooLarge)

/-! ## Image framing -/

/-- R152, R153: CCACHE_OFF disables the cache; CCACHE_ON with 1..11 creates it with every slot 0 and fails on 0 and
12..15. Then level 0 reads its meta bit, and a nested image, which has one group, its codes (R140, R151).
`META.XS` is `IMG.XS` where there is no meta image (R37). That `META.IDX` is then empty is the model's (log 29). -/
def Obligations.ColourCacheElements : Prop :=
  ∀ (s : State) (c : BitVec 4), s.stage = .ccache →
    (∀ m, s.nested = none → s.img0 = some m → m.level0 = true →
      exec .ccacheOff s = .next { s with
        pos := s.pos + 1, img0 := some { m with cc := ⟨0, []⟩ }, phase := .metaCfg, stage := .metaBit } ∧
      (1 ≤ c.toNat → c.toNat ≤ 11 → exec (.ccacheOn c) s = .next { s with
        pos := s.pos + 5, img0 := some { m with cc := ⟨c.toNat, List.replicate (2 ^ c.toNat) 0⟩ },
        phase := .metaCfg, stage := .metaBit })) ∧
    (∀ n, s.nested = some n → n.img.level0 = false →
      exec .ccacheOff s = .next { s with
        pos := s.pos + 1, stage := .hcode,
        nested := some { n with img := { n.img with cc := ⟨0, []⟩, mt := ⟨0, n.img.xs, []⟩, ngroups := 1 } } } ∧
      (1 ≤ c.toNat → c.toNat ≤ 11 → exec (.ccacheOn c) s = .next { s with
        pos := s.pos + 5, stage := .hcode,
        nested := some { n with img := { n.img with
          cc := ⟨c.toNat, List.replicate (2 ^ c.toNat) 0⟩, mt := ⟨0, n.img.xs, []⟩, ngroups := 1 } } })) ∧
    ((curImg s).isSome = true → (c.toNat = 0 ∨ 12 ≤ c.toNat) →
      endsJob .invalidColorCacheBits 5 s (exec (.ccacheOn c) s))

/-- R154, R155: META_OFF gives the level-0 image one group; META_ON begins the meta image, one pixel per tile.
`META.XS` is `IMG.XS` where there is no meta image (R37). That `META.IDX` is then empty, and what a fresh context holds
beside its size and kind, is the model's (log 29). -/
def Obligations.MetaElements : Prop :=
  ∀ (s : State) (m : Img) (b : BitVec 3), s.stage = .metaBit → s.img0 = some m →
    let up (x : Nat) : Nat := (x + 2 ^ (b.toNat + 2) - 1) / 2 ^ (b.toNat + 2)
    exec .metaOff s = .next { s with
      pos := s.pos + 1, img0 := some { m with mt := ⟨0, m.xs, []⟩, ngroups := 1 }, nested := none, phase := .codes,
      stage := .hcode } ∧
    (up m.xs * up m.ys ≤ s.params.pixMax →
      exec (.metaOn b) s = .next { s with
        pos := s.pos + 4, stage := .ccache,
        nested := some ⟨.groupMap (b.toNat + 2),
          { xs := up m.xs, ys := up m.ys, level0 := false, cc := ⟨0, []⟩, mt := ⟨0, up m.xs, []⟩, ngroups := 1,
            codes := [], pix := [] }⟩ })

/-- R157, R162: a complete meta image gives one 16-bit index per pixel, red high and green low, and NGROUPS is one more
than the largest of them. -/
def Obligations.MetaImageGivesGroups : Prop :=
  ∀ (s : State) (n : Nested) (m : Img) (mb : Nat), s.host = [] → s.ops = [] → s.emit = .off →
    s.phase.running = true → s.stage = .pixel → s.nested = some n → n.img.level0 = false →
    n.img.pix.length = n.img.xs * n.img.ys → n.use = .groupMap mb → s.img0 = some m → n.img.pix ≠ [] →
    ∃ idx ng, idx = n.img.pix.map (fun p => (p.toNat >>> 8) &&& 0xFFFF) ∧ (∀ g ∈ idx, g < ng) ∧ ng - 1 ∈ idx ∧
      step s = .next { s with
        img0 := some { m with mt := ⟨mb, (m.xs + 2 ^ mb - 1) / 2 ^ mb, idx⟩, ngroups := ng }, nested := none,
        phase := .codes, stage := .hcode }

/-! ## Prefix-code elements -/

/-- R181 to R185: a simple code gives length 1 to each of its one or two symbols that the alphabet has; it fails when
the alphabet has none of them, and before that when it passes the end of the input. Two distinct symbols take one bit
each, 0 for the smaller; one alone takes none. -/
def Obligations.SimpleCodesRead : Prop :=
  ∀ (i : Instr) (xs : List Nat) (n : Nat) (s : State) (m : Img) (L : Code),
    ((∃ x, i = .hcodeS1b1 x ∧ xs = [x.toNat] ∧ n = 4) ∨ (∃ x, i = .hcodeS1b8 x ∧ xs = [x.toNat] ∧ n = 11) ∨
      (∃ x y, i = .hcodeS2b1 x y ∧ xs = [x.toNat, y.toNat] ∧ n = 12) ∨
      (∃ x y, i = .hcodeS2b8 x y ∧ xs = [x.toNat, y.toNat] ∧ n = 19)) →
    s.stage = .hcode → curImg s = some m →
    L = (List.range (nextAlphabet m)).map (fun j => if j ∈ xs then 1 else 0) →
    (8 * s.inLen.toNat < s.pos + n → endsJob .unexpectedEndOfStream n s (exec i s)) ∧
    (s.pos + n ≤ 8 * s.inLen.toNat → (∀ x ∈ xs, nextAlphabet m ≤ x) →
      endsJob .invalidHuffmanCode n s (exec i s)) ∧
    (s.pos + n ≤ 8 * s.inLen.toNat → (∃ x ∈ xs, x < nextAlphabet m) →
      exec i s = .next (pushCode L m { s with pos := s.pos + n }) ∧
      ∀ x ∈ xs, x < nextAlphabet m →
        symbolBits L x = (if ∃ y ∈ xs, y < nextAlphabet m ∧ y ≠ x then 1 else 0) ∧
        codeword L x = (if ∃ y ∈ xs, y < nextAlphabet m ∧ y < x then 1 else 0))

/-- R186, R187: HCODE_NORMAL gives the code-length code's lengths in the transmission order, 0 to the tokens after the
last one sent, and builds it before any further bit is read; one with a single non-zero length is valid, and its token
takes no bits. -/
def Obligations.NormalCodeHeader : Prop :=
  ∀ (k : BitVec 4) (lens : List (BitVec 3)) (s : State), lens.length = k.toNat + 4 → s.stage = .hcode →
    (curImg s).isSome = true →
    ∃ cl : Code, cl.length = 19 ∧
      (∀ j < 19, cl.getD ([17, 18, 0, 1, 2, 3, 4, 5, 16, 6, 7, 8, 9, 10, 11, 12, 13, 14, 15].getD j 0) 0 =
        if j < k.toNat + 4 then (lens.getD j 0).toNat else 0) ∧
      (validCode cl = true →
        exec (.hcodeNormal k lens) s = .next { s with pos := s.pos + (5 + 3 * (k.toNat + 4)), stage := .maxsym cl }) ∧
      (validCode cl = false → endsJob .invalidHuffmanCode (5 + 3 * (k.toNat + 4)) s (exec (.hcodeNormal k lens) s)) ∧
      (codeSymbols cl = 1 → validCode cl = true ∧
        ∀ tok rd off, cl.getD tok 0 ≠ 0 → decodeSymbol cl rd off = some (tok, 0))

/-- R188: without MAXSYM's field as many tokens as the alphabet has symbols; with it `2 + m`, which fails above that. -/
def Obligations.MaxsymElements : Prop :=
  ∀ (s : State) (cl : Code) (m : Img) (n : BitVec 3) (e : Nat), s.stage = .maxsym cl → curImg s = some m →
    e < 2 ^ (2 + 2 * n.toNat) →
    exec .maxsymOff s = .next { s with pos := s.pos + 1, stage := .token cl [] (nextAlphabet m) 8 } ∧
    (2 + e ≤ nextAlphabet m → exec (.maxsymOn n e) s = .next { s with
      pos := s.pos + (4 + (2 + 2 * n.toNat)), stage := .token cl [] (2 + e) 8 }) ∧
    (nextAlphabet m < 2 + e → endsJob .invalidHuffmanCode (4 + (2 + 2 * n.toNat)) s (exec (.maxsymOn n e) s))

/-- R190 to R193: each token appends its lengths, and only a non-zero literal changes the previous length; while lengths
and tokens remain another token follows (CodeEnd says what follows otherwise); a run past the end of the alphabet
fails. -/
def Obligations.CodeLengthTokens : Prop :=
  ∀ (i : Instr) (tok eb left prev prev' : Nat) (lens new : List Nat) (s : State) (cl : Code) (m : Img),
    s.stage = .token cl lens left prev → curImg s = some m → lens.length < nextAlphabet m →
    ((∃ x, i = .clLit x ∧ tok = x.toNat ∧ eb = 0 ∧ new = [x.toNat] ∧ prev' = if x = 0 then prev else x.toNat) ∨
      (∃ e, i = .clRep16 e ∧ tok = 16 ∧ eb = 2 ∧ new = List.replicate (3 + e.toNat) prev ∧ prev' = prev) ∨
      (∃ e, i = .clZero17 e ∧ tok = 17 ∧ eb = 3 ∧ new = List.replicate (3 + e.toNat) 0 ∧ prev' = prev) ∨
      (∃ e, i = .clZero18 e ∧ tok = 18 ∧ eb = 7 ∧ new = List.replicate (11 + e.toNat) 0 ∧ prev' = prev)) →
    ((lens ++ new).length ≤ nextAlphabet m →
      exec i s = nextToken cl (lens ++ new) (left - 1) prev' m { s with pos := s.pos + (symbolBits cl tok + eb) }) ∧
    ((lens ++ new).length < nextAlphabet m → 2 ≤ left →
      exec i s = .next { s with
        pos := s.pos + (symbolBits cl tok + eb), stage := .token cl (lens ++ new) (left - 1) prev' }) ∧
    (nextAlphabet m < (lens ++ new).length → endsJob .invalidHuffmanCode (symbolBits cl tok + eb) s (exec i s))

/-- R189, R200: the token that fills the alphabet, or is the last one counted, ends the code, its other lengths 0; the
end-of-stream check comes before BuildCode's. -/
def Obligations.CodeEnd : Prop :=
  ∀ (i : Instr) (tok eb left prev : Nat) (lens new : List Nat) (s : State) (cl L : Code) (m : Img),
    s.stage = .token cl lens left prev → curImg s = some m → lens.length < nextAlphabet m →
    ((∃ x, i = .clLit x ∧ tok = x.toNat ∧ eb = 0 ∧ new = [x.toNat]) ∨
      (∃ e, i = .clRep16 e ∧ tok = 16 ∧ eb = 2 ∧ new = List.replicate (3 + e.toNat) prev) ∨
      (∃ e, i = .clZero17 e ∧ tok = 17 ∧ eb = 3 ∧ new = List.replicate (3 + e.toNat) 0) ∨
      (∃ e, i = .clZero18 e ∧ tok = 18 ∧ eb = 7 ∧ new = List.replicate (11 + e.toNat) 0)) →
    (lens ++ new).length ≤ nextAlphabet m → ((lens ++ new).length = nextAlphabet m ∨ left = 1) →
    L.length = nextAlphabet m → (∀ j, L.getD j 0 = (lens ++ new).getD j 0) →
    (8 * s.inLen.toNat < s.pos + (symbolBits cl tok + eb) →
      endsJob .unexpectedEndOfStream (symbolBits cl tok + eb) s (exec i s)) ∧
    (s.pos + (symbolBits cl tok + eb) ≤ 8 * s.inLen.toNat → validCode L = false →
      endsJob .invalidHuffmanCode (symbolBits cl tok + eb) s (exec i s)) ∧
    (s.pos + (symbolBits cl tok + eb) ≤ 8 * s.inLen.toNat → validCode L = true →
      exec i s = .next (pushCode L m { s with pos := s.pos + (symbolBits cl tok + eb) }))

/-- R156, R94, R311: codes join an image five a group, over the alphabets 280 + CS, 256, 256, 256 and 40; after the last
one a nested image reads its pixels, and level 0 enters PIXELS, where SINK_ALLOC is issued with the header's size. -/
def Obligations.GroupsOfFiveCodes : Prop :=
  ∀ (L : Code) (m : Img) (s : State),
    nextAlphabet m =
      [256 + 24 + (if m.cc.bits = 0 then 0 else 2 ^ m.cc.bits), 256, 256, 256, 40].getD (m.codes.length % 5) 0 ∧
    (m.codes.length + 1 < 5 * m.ngroups →
      pushCode L m s = { setCurImg { m with codes := m.codes ++ [L] } s with stage := .hcode }) ∧
    (5 * m.ngroups ≤ m.codes.length + 1 → m.level0 = false →
      pushCode L m s = { setCurImg { m with codes := m.codes ++ [L] } s with stage := .pixel }) ∧
    (5 * m.ngroups ≤ m.codes.length + 1 → m.level0 = true →
      pushCode L m s = { setCurImg { m with codes := m.codes ++ [L] } s with
        phase := .pixels, stage := .pixel, ops := s.ops ++ [.sinkAlloc s.hdr.w s.hdr.h] })

/-- R199: HUFF_DECODE returns the symbol whose codeword, most significant bit first, the next bits begin with, and
consumes exactly that codeword (nothing in a one-symbol code). -/
def Obligations.HuffDecodeReads : Prop :=
  ∀ (c : CodeSel) (s : State) (L : Code), validCode L = true →
    ((c = .codeLength ∧ s.stage = .maxsym L) ∨
      (∃ lens left prev, c = .codeLength ∧ s.stage = .token L lens left prev) ∨
      (∃ gi j m, c = .channel gi j ∧ j < 5 ∧ curImg s = some m ∧ m.codes[5 * gi + j]? = some L)) →
    ∃ sym, sym < L.length ∧ L.getD sym 0 ≠ 0 ∧ startsWith (window s) 0 (encodeSymbol L sym) ∧
      exec (.huffDecode c) s = .next { s with
        pos := s.pos + (if codeSymbols L = 1 then 0 else L.getD sym 0), res := .value sym }

/-! ## The pixel stream -/

/-- R222, R223, R232: a literal writes the word of its four channels and a cache reference the word in its slot; the
pixel is inserted at its hash; at level 0 ROWS_DONE counts the complete rows (R312). An element whose bits pass the end
of the input fails instead (R236). -/
def Obligations.SinglePixelElements : Prop :=
  ∀ (s : State) (m : Img) (green red blue alpha dist : Code) (n : Nat) (i : Instr) (v : Word),
    s.stage = .pixel → curImg s = some m → m.pix.length < m.xs * m.ys →
    pixelCodes m = some (green, red, blue, alpha, dist) →
    ((∃ g r b a, i = .pxLiteral g r b a ∧ v = a ++ r ++ g ++ b ∧
        n = symbolBits green g.toNat + symbolBits red r.toNat + symbolBits blue b.toNat + symbolBits alpha a.toNat) ∨
      (∃ g, i = .pxCache g ∧ 280 ≤ g ∧ m.cc.arr[g - 280]? = some v ∧ n = symbolBits green g)) →
    (8 * s.inLen.toNat < s.pos + n → endsJob .unexpectedEndOfStream n s (exec i s)) ∧
    (s.pos + n ≤ 8 * s.inLen.toNat → exec i s = .next (setCurImg
      { m with
        pix := m.pix ++ [v]
        cc := if m.cc.bits = 0 then m.cc else { m.cc with
          arr := m.cc.arr.set ((v.toNat * 0x1E35A7BD % 2 ^ 32) >>> (32 - m.cc.bits)) v } }
      { s with
        pos := s.pos + n
        rowsDone := if m.level0 then (m.pix.length + 1) / m.xs else s.rowsDone }))

/-- R224, R230, R231, R236: a backward reference whose bits pass the end of the input fails with
UnexpectedEndOfStream; then one whose distance exceeds the pixels written, or whose length exceeds the pixels left, fails
with CorruptBackreference; any other appends `len` pixels, the one at offset `k` being the pixel `dist` before the write
position, `k mod dist` on (the last `dist` pixels repeat), and inserts each in order. -/
def Obligations.BackwardCopy : Prop :=
  ∀ (s : State) (m : Img) (green red blue alpha dcode : Code) (g le d de n dist len : Nat) (new : List Word),
    s.stage = .pixel → curImg s = some m → m.pix.length < m.xs * m.ys →
    pixelCodes m = some (green, red, blue, alpha, dcode) →
    dist = planeToDist m.xs (prefixValue d de) → len = prefixValue (g - 256) le →
    n = symbolBits green g + extraBits (g - 256) + symbolBits dcode d + extraBits d →
    new = (List.range len).map (fun k => m.pix.getD (m.pix.length - dist + k % dist) 0) →
    (8 * s.inLen.toNat < s.pos + n → endsJob .unexpectedEndOfStream n s (exec (.pxBackref g le d de) s)) ∧
    (s.pos + n ≤ 8 * s.inLen.toNat → (m.pix.length < dist ∨ m.xs * m.ys - m.pix.length < len) →
      endsJob .corruptBackreference n s (exec (.pxBackref g le d de) s)) ∧
    (s.pos + n ≤ 8 * s.inLen.toNat → dist ≤ m.pix.length → len ≤ m.xs * m.ys - m.pix.length →
      exec (.pxBackref g le d de) s = .next (setCurImg
        { m with
          pix := m.pix ++ new
          cc := if m.cc.bits = 0 then m.cc else { m.cc with
            arr := new.foldl
              (fun arr v => arr.set ((v.toNat * 0x1E35A7BD % 2 ^ 32) >>> (32 - m.cc.bits)) v) m.cc.arr } }
        { s with
          pos := s.pos + n
          rowsDone := if m.level0 then (m.pix.length + len) / m.xs else s.rowsDone }))

/-- R233, R235: CC_INSERT overwrites the slot at the pixel's hash, the top bits of the wrapped product, which lies in
the table; CC_LOOKUP returns the slot's content, no hashing; so a lookup at an inserted pixel's hash returns it. -/
def Obligations.ColourCacheSlots : Prop :=
  ∀ (s : State) (m : Img) (v : Word) (key slot : Nat), curImg s = some m → 1 ≤ m.cc.bits → m.cc.bits ≤ 11 →
    m.cc.arr.length = 2 ^ m.cc.bits → key < 2 ^ m.cc.bits →
    slot = (v.toNat * 0x1E35A7BD % 2 ^ 32) >>> (32 - m.cc.bits) →
    slot < 2 ^ m.cc.bits ∧
    exec (.ccInsert v) s = .next (setCurImg { m with cc := { m.cc with arr := m.cc.arr.set slot v } } s) ∧
    exec (.ccLookup key) s = .next { s with res := .pixel (m.cc.arr.getD key 0) } ∧
    ∀ t, exec (.ccInsert v) s = .next t →
      exec (.ccLookup key) t =
        .next { t with res := .pixel (if key = slot then v else m.cc.arr.getD key 0) }

/-- R221: the group of an element is 0 without a meta image, else the index of the tile of its first pixel, and every
index is below NGROUPS; the five codes in force at an element are those of the group at its first pixel. -/
def Obligations.GroupSelection : Prop :=
  ∀ (s : State) (m : Img) (x y : Nat), curImg s = some m → 1 ≤ m.ngroups → mapOk m = true → x < m.xs → y < m.ys →
    ∃ gi, gi < m.ngroups ∧ exec (.groupSelect x y) s = .next { s with res := .value gi } ∧
      (m.mt.bits = 0 → gi = 0) ∧
      (m.mt.bits ≠ 0 → m.mt.idx[(y / 2 ^ m.mt.bits) * m.mt.xs + x / 2 ^ m.mt.bits]? = some gi) ∧
      (x = m.pix.length % m.xs → y = m.pix.length / m.xs → m.codes.length = 5 * m.ngroups →
        ∃ green red blue alpha dist, pixelCodes m = some (green, red, blue, alpha, dist) ∧
          m.codes[5 * gi]? = some green ∧ m.codes[5 * gi + 1]? = some red ∧ m.codes[5 * gi + 2]? = some blue ∧
          m.codes[5 * gi + 3]? = some alpha ∧ m.codes[5 * gi + 4]? = some dist)

/-- R226: the value of a prefix symbol and its extra bits; every value 1..1048576 has exactly one symbol below 40 and
extra bits that give it, and the symbols below 24 give the lengths 1..4096. -/
def Obligations.PrefixValuesCover : Prop :=
  (∀ s e, prefixValue s e =
    if s < 4 then s + 1 else ((2 + (s &&& 1)) * 2 ^ ((s - 2) / 2)) + e + 1) ∧
  (∀ v, 1 ≤ v → v ≤ 1048576 →
    ∃ s e, s < 40 ∧ e < 2 ^ extraBits s ∧ prefixValue s e = v ∧ (s < 24 ↔ v ≤ 4096) ∧
      ∀ s' e', s' < 40 → e' < 2 ^ extraBits s' → prefixValue s' e' = v → s' = s ∧ e' = e) ∧
  ∀ s e, s < 40 → e < 2 ^ extraBits s → 1 ≤ prefixValue s e ∧ prefixValue s e ≤ 1048576

/-- R228, R238: a plane code above 120 is that many pixels less 120; another is its entry's columns plus rows times the
width, at least 1; a distance is at least 1 and at most the larger of 1048456 and seven rows and eight pixels. The 120
entries of R229, in their order; in order of their squared length they are all `(xi, yi)` with `yi` in 0..7, `xi` in −7..8, the pixel after
the write position excluded. -/
def Obligations.DistanceMapping : Prop :=
  distMap =
    [(0, 1), (1, 0), (1, 1), (-1, 1), (0, 2), (2, 0), (1, 2), (-1, 2), (2, 1), (-2, 1)] ++
    [(2, 2), (-2, 2), (0, 3), (3, 0), (1, 3), (-1, 3), (3, 1), (-3, 1), (2, 3), (-2, 3)] ++
    [(3, 2), (-3, 2), (0, 4), (4, 0), (1, 4), (-1, 4), (4, 1), (-4, 1), (3, 3), (-3, 3)] ++
    [(2, 4), (-2, 4), (4, 2), (-4, 2), (0, 5), (3, 4), (-3, 4), (4, 3), (-4, 3), (5, 0)] ++
    [(1, 5), (-1, 5), (5, 1), (-5, 1), (2, 5), (-2, 5), (5, 2), (-5, 2), (4, 4), (-4, 4)] ++
    [(3, 5), (-3, 5), (5, 3), (-5, 3), (0, 6), (6, 0), (1, 6), (-1, 6), (6, 1), (-6, 1)] ++
    [(2, 6), (-2, 6), (6, 2), (-6, 2), (4, 5), (-4, 5), (5, 4), (-5, 4), (3, 6), (-3, 6)] ++
    [(6, 3), (-6, 3), (0, 7), (7, 0), (1, 7), (-1, 7), (5, 5), (-5, 5), (7, 1), (-7, 1)] ++
    [(4, 6), (-4, 6), (6, 4), (-6, 4), (2, 7), (-2, 7), (7, 2), (-7, 2), (3, 7), (-3, 7)] ++
    [(7, 3), (-7, 3), (5, 6), (-5, 6), (6, 5), (-6, 5), (8, 0), (4, 7), (-4, 7), (7, 4)] ++
    [(-7, 4), (8, 1), (8, 2), (6, 6), (-6, 6), (8, 3), (5, 7), (-5, 7), (7, 5), (-7, 5)] ++
    [(8, 4), (6, 7), (-6, 7), (7, 6), (-7, 6), (8, 5), (7, 7), (-7, 7), (8, 6), (8, 7)] ∧
  (∀ xs plane, 120 < plane → planeToDist xs plane = plane - 120) ∧
  (∀ xs plane, 1 ≤ plane → plane ≤ 120 → ∃ xi yi : Int, distMap[plane - 1]? = some (xi, yi) ∧
    (planeToDist xs plane : Int) = max 1 (xi + yi * xs)) ∧
  (∀ xs plane, 1 ≤ plane → plane ≤ 1048576 →
    1 ≤ planeToDist xs plane ∧ planeToDist xs plane ≤ max 1048456 (xs * 7 + 8)) ∧
  (∀ xi yi : Int, (xi, yi) ∈ distMap ↔ 0 ≤ yi ∧ yi ≤ 7 ∧ -7 ≤ xi ∧ xi ≤ 8 ∧ (yi = 0 → 1 ≤ xi)) ∧
  distMap.Nodup ∧ distMap.Pairwise fun p q => p.1 * p.1 + p.2 * p.2 ≤ q.1 * q.1 + q.2 * q.2

/-! ## The transform pipeline -/

/-- R8, R160: `SUB(s, b)` is `s / 2^b` rounded up; every pixel of an image has its tile in the sub-image, at the index
given, and two pixels share an index exactly when they lie in the same tile. -/
def Obligations.SubSampledSizes : Prop :=
  ∀ (w h b x y : Nat), x < w → y < h →
    (∀ k, subSize w b ≤ k ↔ w ≤ k * 2 ^ b) ∧
    tileIndex w b x y = (y / 2 ^ b) * subSize w b + x / 2 ^ b ∧
    tileIndex w b x y < subSize w b * subSize h b ∧
    ∀ x' y', x' < w → y' < h →
      (tileIndex w b x' y' = tileIndex w b x y ↔ x' / 2 ^ b = x / 2 ^ b ∧ y' / 2 ^ b = y / 2 ^ b)

/-- R7, R262 to R266: the channels of a pixel word, and the lane-wise operations: wrapping sums, floor averages, the
gradient choice with its tie, the two clamps, the half truncated toward zero. -/
def Obligations.LaneArithmetic : Prop :=
  ∀ (p q r : Word) (c : Word → Byte), c = chA ∨ c = chR ∨ c = chG ∨ c = chB →
    p.toNat = (chA p).toNat * 2 ^ 24 + (chR p).toNat * 2 ^ 16 + (chG p).toNat * 2 ^ 8 + (chB p).toNat ∧
    argb (chA p) (chR p) (chG p) (chB p) = p ∧
    (c (addPixels p q)).toNat = ((c p).toNat + (c q).toNat) % 256 ∧
    (c (average2 p q)).toNat = ((c p).toNat + (c q).toNat) / 2 ∧
    ((c (clampAddSubtractFull p q r)).toNat : Int) =
      max 0 (min 255 (((c p).toNat : Int) + (c q).toNat - (c r).toNat)) ∧
    ((c (clampAddSubtractHalf p q)).toNat : Int) =
      max 0 (min 255 (((c p).toNat : Int) + (((c p).toNat : Int) - (c q).toNat).tdiv 2)) ∧
    select p q r =
      (if ([chA, chR, chG, chB].map fun k => (((k q).toNat : Int) - (k r).toNat).natAbs).sum <
          ([chA, chR, chG, chB].map fun k => (((k p).toNat : Int) - (k r).toNat).natAbs).sum then p else q)

/-- R268 to R283: a predictor sub-image pixel selects the mode by bits 11:8, and each mode returns its prediction and
changes nothing else. -/
def Obligations.PredictorModes : Prop :=
  ∀ (s : State) (l t tr tl e : Word),
    exec (.predM0 l t tr tl) s = .next { s with res := .pixel 0xFF000000 } ∧
    exec (.predM1 l t tr tl) s = .next { s with res := .pixel l } ∧
    exec (.predM2 l t tr tl) s = .next { s with res := .pixel t } ∧
    exec (.predM3 l t tr tl) s = .next { s with res := .pixel tr } ∧
    exec (.predM4 l t tr tl) s = .next { s with res := .pixel tl } ∧
    exec (.predM5 l t tr tl) s = .next { s with res := .pixel (average2 (average2 l tr) t) } ∧
    exec (.predM6 l t tr tl) s = .next { s with res := .pixel (average2 l tl) } ∧
    exec (.predM7 l t tr tl) s = .next { s with res := .pixel (average2 l t) } ∧
    exec (.predM8 l t tr tl) s = .next { s with res := .pixel (average2 tl t) } ∧
    exec (.predM9 l t tr tl) s = .next { s with res := .pixel (average2 t tr) } ∧
    exec (.predM10 l t tr tl) s = .next { s with res := .pixel (average2 (average2 l tl) (average2 t tr)) } ∧
    exec (.predM11 l t tr tl) s = .next { s with res := .pixel (select l t tl) } ∧
    exec (.predM12 l t tr tl) s = .next { s with res := .pixel (clampAddSubtractFull l t tl) } ∧
    exec (.predM13 l t tr tl) s = .next { s with res := .pixel (clampAddSubtractHalf (average2 l t) tl) } ∧
    exec (.predM14 l t tr tl) s = .next { s with res := .pixel 0xFF000000 } ∧
    exec (.predM15 l t tr tl) s = .next { s with res := .pixel 0xFF000000 } ∧
    exec (decodePred e l t tr tl) s =
      .next { s with res := .pixel (predict (e.toNat / 256 % 16) l t tr tl) }

/-- R267: INV_PRED adds to each residual the prediction of its position, made from pixels already reconstructed: black
in the corner, L along the top row, T down the left column, elsewhere the mode of the pixel's tile, TR being the current
row's first pixel in the last column. -/
def Obligations.InversePredictor : Prop :=
  ∀ (s : State) (bits : Nat) (data : List Word),
    ∃ out : List Word, exec (.invPred bits data) s = .next { s with work := { s.work with pix := out } } ∧
      out.length = s.work.pix.length ∧
      ∀ x y w : Nat, w = s.work.w → x < w → y * w + x < s.work.pix.length →
        pixAt out (y * w + x) = addPixels (pixAt s.work.pix (y * w + x))
          (if x = 0 ∧ y = 0 then 0xFF000000
           else if y = 0 then pixAt out (x - 1)
           else if x = 0 then pixAt out ((y - 1) * w)
           else predict
             ((chG (pixAt data ((y / 2 ^ bits) * ((w + 2 ^ bits - 1) / 2 ^ bits) + x / 2 ^ bits))).toNat % 16)
             (pixAt out (y * w + x - 1)) (pixAt out ((y - 1) * w + x))
             (if x + 1 < w then pixAt out ((y - 1) * w + x + 1) else pixAt out (y * w))
             (pixAt out ((y - 1) * w + x - 1)))

/-- R284, R286, R287: INV_XCOLOR corrects red by the tile's green-to-red, and blue by its green-to-blue and, of the
corrected red, its red-to-blue multiplier, each product of signed bytes divided by 32 and rounded down; INV_SUBGREEN
adds green to red and blue. Alpha and green pass through. -/
def Obligations.InverseColour : Prop :=
  ∀ (s : State) (bits : Nat) (data : List Word), ∃ out out' : List Word,
    exec (.invXcolor bits data) s = .next { s with work := { s.work with pix := out } } ∧
    exec .invSubgreen s = .next { s with work := { s.work with pix := out' } } ∧
    out.length = s.work.pix.length ∧ out'.length = s.work.pix.length ∧
    ∀ x y w : Nat, w = s.work.w → x < w → y * w + x < s.work.pix.length →
      ∀ p q e q' : Word, p = pixAt s.work.pix (y * w + x) → q = pixAt out (y * w + x) →
        q' = pixAt out' (y * w + x) →
        e = pixAt data ((y / 2 ^ bits) * ((w + 2 ^ bits - 1) / 2 ^ bits) + x / 2 ^ bits) →
        chA q = chA p ∧ chG q = chG p ∧
        ((chR q).toNat : Int) = (((chR p).toNat : Int) + Int.fdiv ((chB e).toInt * (chG p).toInt) 32) % 256 ∧
        ((chB q).toNat : Int) = (((chB p).toNat : Int) + Int.fdiv ((chG e).toInt * (chG p).toInt) 32
          + Int.fdiv ((chR e).toInt * (chR q).toInt) 32) % 256 ∧
        chA q' = chA p ∧ chG q' = chG p ∧ (chR q').toNat = ((chR p).toNat + (chG p).toNat) % 256 ∧
        (chB q').toNat = ((chB p).toNat + (chG p).toNat) % 256

/-- R288: PALETTE_EXPAND returns 2^(8 >> WB) entries: the palette's running lane sums, then transparent black. -/
def Obligations.PaletteExpansion : Prop :=
  ∀ (s : State) (pal : List Word) (wb : Nat), wb ≤ 3 → 1 ≤ pal.length → pal.length ≤ 2 ^ (8 / 2 ^ wb) →
    ∃ E : List Word, exec (.paletteExpand pal wb) s = .next { s with res := .pixels E } ∧
      E.length = 2 ^ (8 / 2 ^ wb) ∧ E.getD 0 0 = pal.getD 0 0 ∧
      (∀ i, 1 ≤ i → i < pal.length → E.getD i 0 = addPixels (pal.getD i 0) (E.getD (i - 1) 0)) ∧
      ∀ i, pal.length ≤ i → E.getD i 0 = 0

/-- R289: INV_CINDEX makes a `w`-wide image whose pixel `x` is the palette entry named by `8 >> WB` bits of the green of
packed pixel `x >> WB`, the leftmost pixel's in the least significant bits. -/
def Obligations.InverseColourIndexing : Prop :=
  ∀ (s : State) (w wb : Nat) (pal : List Word), wb ≤ 3 →
    ∃ out : List Word,
      exec (.invCindex w wb pal) s = .next { s with work := { s.work with w := w, pix := out } } ∧
      out.length = w * s.work.h ∧
      ∀ x y, x < w → y < s.work.h →
        pixAt out (y * w + x) = pixAt pal
          ((chG (pixAt s.work.pix (y * s.work.w + x / 2 ^ wb))).toNat / 2 ^ (8 / 2 ^ wb * (x % 2 ^ wb))
            % 2 ^ (8 / 2 ^ wb))

/-- R260, R261: the inverse operations the sequencer issues run InvertAll, the last transform read first, and the image
they leave is as wide as the first record's, when each record has the width it was read at. -/
def Obligations.PipelineInverts : Prop :=
  ∀ (s : State) (xfs : List Xform) (rest : List Instr) (w : Nat), s.host = [] → s.ops = inverseOps xfs ++ rest →
    Host.Core.run Sys2Proof.core xfs.length s = .next { s with ops := rest, work := invertAll xfs s.work } ∧
    (widthAfter w xfs = some s.work.w → (invertAll xfs s.work).w = w ∧ (invertAll xfs s.work).h = s.work.h)

/-- Inverting the first `y1` rows of a coded image gives exactly the first `y1` rows of the inverted image. R260 and the
two properties R290 names imply it; that a batch is made by inverting all rows from the first on is the model's (log 23). -/
def Obligations.BatchingEquivalence : Prop :=
  ∀ (xfs : List Xform) (w cw h y1 : Nat) (pix : List Word), widthAfter w xfs = some cw → pix.length = cw * h → y1 ≤ h →
    (invertAll xfs { w := cw, h := y1, pix := pix.take (cw * y1) }).pix =
      (invertAll xfs { w := cw, h := h, pix := pix }).pix.take (w * y1)

/-! ## The sequencer and the host -/

/-- R312, R313, R314: a batch of rows that is due, 16 complete rows or the rest of a finished image, is emitted: after
some steps ROWS_EMITTED is its end, and the sink has been given its pixels in raster order, each the pixel of InvertAll
of the whole coded image, whatever its pixels still to come are; nothing else of the job has changed, but for the image in the pipeline (log 9).
That the one batch of a 16-row image goes out before Finish is the model's reading of R312 (log 30), and so is what a
batch inverts (log 23). -/
def Obligations.BatchEmitsRows : Prop :=
  ∀ (s : State) (m : Img) (y0 y1 : Nat) (full : List Word),
    s.host = [] → s.ops = [] → s.emit = .off → s.phase.running = true → s.nested = none → s.img0 = some m →
    m.level0 = true → m.ys = s.hdr.h → widthAfter s.hdr.w s.xfs = some m.xs → y0 = s.rowsEmitted →
    ((s.stage = .pixel ∧ y1 = y0 + 16 ∧ y1 ≤ s.rowsDone) ∨ (s.stage = .finish ∧ y0 < s.hdr.h ∧ y1 = s.hdr.h)) →
    y1 ≤ s.hdr.h → m.xs * y1 ≤ m.pix.length → m.pix <+: full → full.length = m.xs * m.ys →
    ∃ k t, Host.Core.run Sys2Proof.core k s = .next t ∧
      t = { s with rowsEmitted := y1, work := t.work, sink := t.sink } ∧
      t.sink.size = s.sink.size ∧ t.sink.whole = s.sink.whole ∧
      t.sink.sets = s.sink.sets ++ ((raster s.hdr.w y1).drop (s.hdr.w * y0)).map fun p =>
        sinkPixel p.1 p.2
          (pixAt (invertAll s.xfs { w := m.xs, h := s.hdr.h, pix := full }).pix (p.2 * s.hdr.w + p.1))

/-- R311, R315, R316, R65: SINK_ALLOC allocates, with 4 channels and no pixel set; SINK_SET sets one pixel to its red,
green, blue and alpha; nothing else changes. After the job the host reads the pixel set, and the sink's bytes are r, g,
b, a of the pixels in row order. -/
def Obligations.SinkCalls : Prop :=
  ∀ (s : State) (w h x y W : Nat) (p : Word),
    (∃ k, exec (.sinkAlloc w h) s = .next { s with sink := k } ∧ k.size = some (w, h, 4) ∧ k.sets = []) ∧
    (∃ k, exec (.sinkSet x y p) s = .next { s with sink := k } ∧ k.size = s.sink.size ∧ k.whole = s.sink.whole ∧
      k.sets = s.sink.sets ++
        [⟨x, y, p.extractLsb' 16 8, p.extractLsb' 8 8, p.extractLsb' 0 8, p.extractLsb' 24 8⟩]) ∧
    (∀ q ∈ s.sink.sets, s.sink.whole = true → isBusy s = false → s.sink.positions.Nodup →
      hostSinkPixel s q.x q.y = argb q.a q.r q.g q.b) ∧
    (x < W → hostSinkByte s W (4 * (y * W + x)) = chR (hostSinkPixel s x y) ∧
      hostSinkByte s W (4 * (y * W + x) + 1) = chG (hostSinkPixel s x y) ∧
      hostSinkByte s W (4 * (y * W + x) + 2) = chB (hostSinkPixel s x y) ∧
      hostSinkByte s W (4 * (y * W + x) + 3) = chA (hostSinkPixel s x y))

/-- R158, R314, R318: when the level-0 image is complete and no batch is due, the end check fails the job or begins
FINISH; when every row is emitted, the job ends with DONE alone, INFO, BITPOS and the sink as they are, and the core
then waits. -/
def Obligations.JobEnd : Prop :=
  ∀ (s : State) (m : Img), s.host = [] → s.ops = [] → s.emit = .off → s.phase.running = true → s.nested = none →
    s.img0 = some m →
    (s.stage = .pixel → m.pix.length = m.xs * m.ys → s.rowsDone < s.rowsEmitted + 16 →
      (8 * s.inLen.toNat < s.pos → endsJob .unexpectedEndOfStream 0 s (step s)) ∧
      (s.pos ≤ 8 * s.inLen.toNat → step s = .next { s with phase := .finish, stage := .finish })) ∧
    (s.stage = .finish → s.rowsEmitted = s.hdr.h →
      ∃ t, step s = .next t ∧ t.phase = .done ∧ t.status = 2 ∧ t.info = s.info ∧ t.pos = s.pos ∧
        t.rowsEmitted = s.hdr.h ∧ t.img0 = none ∧ t.nested = none ∧ t.xfs = [] ∧ t.sink.whole = true ∧
        t.sink.sets = s.sink.sets ∧ t.sink.size = s.sink.size ∧ t.inMem = s.inMem ∧ t.inLen = s.inLen ∧
        t.expect = s.expect ∧ step t = .next t)

/-- R310, R371, R374: START while BUSY does nothing; over LEN_MAX it is refused; otherwise it begins a job:
STATUS is BUSY alone, INFO, the cursor, the transform list and the row counts (R40) are 0, no context exists, and only
the input, EXPECT and the sink survive: whatever else an earlier job left, the new job begins the same. The clauses about `stage`,
`ops`, `emit`, `inFree`, `params`, `host` and `freeCtr` are about the model's own fields (logs 1, 4, 7, 9). -/
def Obligations.HostStart : Prop :=
  ∀ (s : State),
    (isBusy s = true → exec .hostStart s = .next s) ∧
    (isBusy s = false → s.params.lenMax < s.inLen.toNat → exec .hostStart s = .refused .inputTooLong) ∧
    (isBusy s = false → s.inLen.toNat ≤ s.params.lenMax →
      ∃ t, exec .hostStart s = .next t ∧ t.status = 1 ∧ t.info = 0 ∧ t.pos = 0 ∧ isEos t = false ∧ t.seen = 0 ∧
        t.xfs = [] ∧ t.rowsEmitted = 0 ∧ t.rowsDone = 0 ∧ t.phase = .header ∧ t.stage = .header ∧ t.img0 = none ∧
        t.nested = none ∧ t.ops = [] ∧ t.emit = .off ∧ t.inFree = none ∧ t.inMem = s.inMem ∧ t.inLen = s.inLen ∧
        t.expect = s.expect ∧ t.sink = s.sink ∧ t.params = s.params ∧ t.host = s.host) ∧
    ∀ u : State, isBusy s = false → isBusy u = false →
      exec .hostStart { u with
        inMem := s.inMem, inLen := s.inLen, expect := s.expect, sink := s.sink
        params := s.params, host := s.host, freeCtr := s.freeCtr } = exec .hostStart s

/-- R21 to R27: what a host write of each register does, as a step, and what a read returns. -/
def Obligations.RegisterAccess : Prop :=
  ∀ (s : State) (r : Reg) (v : Word) (rest : List HostAct),
    (s.host = .write r v :: rest →
      (r = .status ∨ r = .info ∨ r = .bitpos → step s = .next { s with host := rest }) ∧
      (r = .inLen ∨ r = .expect → isBusy s = true → step s = .next { s with host := rest }) ∧
      (r = .inLen → isBusy s = false → step s = .next { s with host := rest, inLen := v }) ∧
      (r = .expect → isBusy s = false → ∃ e : Word, step s = .next { s with host := rest, expect := e } ∧
        e.extractLsb' 0 28 = v.extractLsb' 0 28 ∧ e.extractLsb' 28 3 = 0 ∧ e.getLsbD 31 = v.getLsbD 31) ∧
      (r = .ctrl → v.getLsbD 0 = false → step s = .next { s with host := rest }) ∧
      (r = .ctrl → v.getLsbD 0 = true → step s = exec .hostStart { s with host := rest })) ∧
    readReg s .ctrl = 0 ∧ readReg s .inLen = s.inLen ∧ readReg s .expect = s.expect ∧
    readReg s .status = s.status ∧ readReg s .info = s.info ∧ (readReg s .bitpos).toNat = s.pos % 2 ^ 32

/-- R370: after reset, and after a hardware reset at any time, every register reads 0, PHASE is IDLE and no context
exists; a reset leaves `IN` and the sink. -/
def Obligations.ResetState : Prop :=
  (∀ r, readReg State.reset r = 0) ∧ State.reset.phase = .idle ∧ State.reset.img0 = none ∧ State.reset.nested = none ∧
  ∀ (s : State) (rest : List HostAct), s.host = .reset :: rest →
    ∃ t, step s = .next t ∧ (∀ r, readReg t r = 0) ∧ t.phase = .idle ∧ t.img0 = none ∧ t.nested = none ∧
      (∀ a, t.inMem.read a = s.inMem.read a) ∧ t.sink.sets = s.sink.sets ∧ t.sink.size = s.sink.size

/-- R140, R82: with no host access and no operation waiting, a step at an element's place is the meaning of the element
the bits at the cursor decode to in the grammar's context; an operation waiting runs next; with no job running the state
does not change; a pass of the host is the core's own move. The spec is untimed (R381): that a step is one element (log 6), the
queue of operations (log 9), and the list of host accesses with its pass (log 1) are the model's. -/
def Obligations.StepRunsTheInstruction : Prop :=
  ∀ (s : State),
    (∀ c i, atElement s = true → fetchCtx s = some c → decode c (window s) = .ok i → step s = exec i s) ∧
    (∀ i rest, s.host = [] → s.ops = i :: rest → step s = exec i { s with ops := rest }) ∧
    (s.host = [] → s.ops = [] → s.phase = .idle ∨ s.phase = .done ∨ s.phase = .error → step s = .next s) ∧
    (∀ rest, s.host = .pass :: rest → step s = coreMove { s with host := rest })

/-! ## Invariants -/

/-- The invariants hold after reset. -/
def Obligations.InvariantsHoldAtReset : Prop :=
  Inv State.reset ∧ sinkOk State.reset = true ∧ widthsOk State.reset = true ∧ cachesOk State.reset = true

/-- Every step keeps `Inv`: the input memory's canonical form, STATUS against PHASE (R24, R30), the reserved bits (R23,
R25), the grammar position against the contexts, groups, codes and pixel counts (R35 to R39, R82, R159), each transform
type at most once (R32), and only the sequencer's own operations waiting. -/
def Obligations.StepKeepsInv : Prop :=
  ∀ s t : State, Inv s → step s = .next t → Inv t

/-- From every state with `Inv` the machine goes on: no step faults, and none refuses but for capacity (R320). In
particular every codeword fits (R198), and the codes and contexts a rule names exist. -/
def Obligations.InvNeverStops : Prop :=
  ∀ s : State, Inv s → goesOn (step s) = true

/-- R71, R311: the sink is allocated once, with the header's size, which INFO shows, and before any pixel; the pixels are
set in raster order, each once; and a finished job has set every pixel. -/
def Obligations.SinkInRasterOrder : Prop :=
  ∀ s t : State, Inv s → sinkOk s = true → step s = .next t → sinkOk t = true

/-- R261, R34: the coded width is the header's width as the records read so far have changed it. -/
def Obligations.CodedWidthsAgree : Prop :=
  ∀ s t : State, Inv s → widthsOk s = true → step s = .next t → widthsOk t = true

/-- R234: the cache of every image holds its pixels inserted in the order of their positions. -/
def Obligations.CacheInPixelOrder : Prop :=
  ∀ s t : State, Inv s → cachesOk s = true → step s = .next t → cachesOk t = true

/-- R24, R30: STATUS.BUSY is 1 exactly when PHASE is none of IDLE, DONE, ERROR; DONE and ERROR are those phases; at most
one of the three is 1; ERRKIND is a failure code exactly with ERROR; the reserved bits are 0. -/
def Obligations.StatusAgreesWithPhase : Prop :=
  ∀ s : State, Inv s →
    (isBusy s = true ↔ s.phase ≠ .idle ∧ s.phase ≠ .done ∧ s.phase ≠ .error) ∧
    (isDone s = true ↔ s.phase = .done) ∧ (isError s = true ↔ s.phase = .error) ∧
    (isBusy s).toNat + (isDone s).toNat + (isError s).toNat ≤ 1 ∧
    (isError s = true ↔ s.status.extractLsb' 4 4 ≠ 0) ∧ (s.status.extractLsb' 4 4).toNat ≤ 6 ∧
    s.status.getLsbD 3 = false ∧ s.status.extractLsb' 8 24 = 0

/-- R28, R29: no step moves the cursor back but a hardware reset and a START that begins a job; and the end-of-stream
flag stays once it is set, unless the host writes IN_LEN between jobs. (Only the sequencer's operations wait.) -/
def Obligations.CursorNeverDecreases : Prop :=
  ∀ s t : State, s.ops.all isIssued = true → s.host.head? ≠ some .reset →
    (∀ v, s.host.head? = some (.write .ctrl v) → v.getLsbD 0 = true → isBusy s = true) → step s = .next t →
    s.pos ≤ t.pos ∧
    (isEos s = true → (∀ v, s.host.head? = some (.write .inLen v) → isBusy s = true) → isEos t = true)

/-! ## Frames -/

/-- What a stream element leaves unchanged when it has a next state: all of `IN`, IN_LEN, EXPECT, the size of the sink
and its pixels; INFO but for HDR; and, when the job goes on, STATUS, ROWS_EMITTED, the results, HDR and XSIZE but for
HDR, XF.SEEN but for the transform elements, ROWS_DONE but for the pixel elements, the batch and the work image, the
operations already waiting, the records already read (the others append nothing), and level 0 while a nested image is
decoded. The cursor never moves back. A job that fails leaves its registers unspecified (R348; log 14). The clauses about
`params`, `host`, `inFree`, `freeCtr`, `res`, `emit`, `work` and `ops` are about the model's own fields (logs 1, 4, 7,
9). -/
def Obligations.ElementFrame : Prop :=
  ∀ (i : Instr) (s t : State), isElement i = true → exec i s = .next t →
    (∀ a, t.inMem.read a = s.inMem.read a) ∧ t.inMem = s.inMem ∧ t.inLen = s.inLen ∧ t.expect = s.expect ∧
    t.params = s.params ∧ t.host = s.host ∧ t.inFree = s.inFree ∧
    t.sink.size = s.sink.size ∧ t.sink.sets = s.sink.sets ∧ t.sink.calls = s.sink.calls ∧ s.pos ≤ t.pos ∧
    (isHeader i = false → t.info = s.info) ∧
    (t.phase ≠ .error →
      t.status = s.status ∧ t.sink = s.sink ∧ t.rowsEmitted = s.rowsEmitted ∧ t.res = s.res ∧ t.emit = s.emit ∧
      t.work = s.work ∧ t.freeCtr = s.freeCtr ∧ s.ops <+: t.ops ∧ s.xfs <+: t.xfs ∧
      (isHeader i = false → t.hdr = s.hdr ∧ t.xsize = s.xsize) ∧
      (namedXform? i = none → t.seen = s.seen) ∧
      (isPixelElement i = false → t.rowsDone = s.rowsDone) ∧
      (i ≠ .xformSubgreen → t.xfs = s.xfs) ∧
      (s.nested.isSome = true → i ≠ .xformEnd → i ≠ .metaOff → t.img0 = s.img0))

/-- What an internal operation leaves unchanged: all of `IN`, every register and every part of the decoder's state, but
for the cursor (the reads), the result (the operations that return one), the work image (the inverse transforms), the
sink (the sink calls), and, for CC_INSERT, one slot of the cache of the current image, that of the pixel's hash: level 0
stays while a nested image is current, and a nested image stays what it is decoded for. `res` and `work` are the model's
fields (log 9). -/
def Obligations.OperationFrame : Prop :=
  ∀ (i : Instr) (s t : State), isOperation i = true → exec i s = .next t →
    (∀ a, t.inMem.read a = s.inMem.read a) ∧
    t = { s with pos := t.pos, res := t.res, work := t.work, sink := t.sink, img0 := t.img0, nested := t.nested } ∧
    (consumesBits i = false → t.pos = s.pos) ∧ (returnsResult i = false → t.res = s.res) ∧
    (isInverse i = false → t.work = s.work) ∧ t.work.h = s.work.h ∧ (isSinkCall i = false → t.sink = s.sink) ∧
    ((∀ v, i ≠ .ccInsert v) → t.img0 = s.img0 ∧ t.nested = s.nested) ∧
    (s.nested.isSome = true → t.img0 = s.img0) ∧ t.nested.map (·.use) = s.nested.map (·.use) ∧
    (curImg t).isSome = (curImg s).isSome ∧
    ∀ m, curImg s = some m → ∃ arr, curImg t = some { m with cc := { m.cc with arr := arr } } ∧
      arr.length = m.cc.arr.length ∧
      ∀ k, (∀ v, i = .ccInsert v → k ≠ hash v m.cc.bits) → arr[k]? = m.cc.arr[k]?

/-- R141 (the alpha hint, decision D8), R96: `withAlpha` changes the hint in HDR.ALPHA and in INFO, and two states that
differ in it alone take every instruction and every step to states that differ in it alone, as do two headers; an element
other than the header, of a job that goes on, keeps the hint; and the host reads the same of every register but INFO,
and of the sink. (START, a failure and the end of a job leave HDR.ALPHA unspecified: logs 14, 26.) -/
def Obligations.AlphaHintInert : Prop :=
  (∀ (i : Instr) (s : State) (a : BitVec 1),
    mapNext (withAlpha 0) (exec i (withAlpha a s)) = mapNext (withAlpha 0) (exec i s)) ∧
  (∀ (s : State) (a : BitVec 1), mapNext (withAlpha 0) (step (withAlpha a s)) = mapNext (withAlpha 0) (step s)) ∧
  (∀ (magic : BitVec 8) (w h : BitVec 14) (a a' : BitVec 1) (v : BitVec 3) (s : State),
    mapNext (withAlpha 0) (exec (.hdr magic w h a v) s) = mapNext (withAlpha 0) (exec (.hdr magic w h a' v) s)) ∧
  (∀ (i : Instr) (s t : State) (a : BitVec 1), isHeader i = false → i ≠ .hostStart → exec i s = .next t →
    t.phase ≠ .error → exec i (withAlpha a s) = .next (withAlpha a t)) ∧
  ∀ (s : State) (a : BitVec 1) (x y : Nat),
    (∀ r, r ≠ .info → readReg (withAlpha a s) r = readReg s r) ∧ (withAlpha a s).info.getLsbD 28 = a.getLsbD 0 ∧
    (∀ k, k ≠ 28 → (withAlpha a s).info.getLsbD k = s.info.getLsbD k) ∧
    hostSinkPixel (withAlpha a s) x y = hostSinkPixel s x y

/-- R96: the bits the rules ignore: all but bits 11:8 of a predictor sub-image pixel, in the mode it selects and in the
whole inverse predictor, alpha of a cross-colour element,
alpha and blue of a meta image pixel, all but green of a packed pixel, and a simple code's symbol outside its
alphabet. -/
def Obligations.IgnoredBits : Prop :=
  (∀ p q l t tr tl : Word, p.extractLsb' 8 4 = q.extractLsb' 8 4 → decodePred p l t tr tl = decodePred q l t tr tl) ∧
  (∀ (s : State) (bits : Nat) (data data' : List Word),
    data.map (·.extractLsb' 8 4) = data'.map (·.extractLsb' 8 4) →
    (∀ w x y, predMode data w bits x y = predMode data' w bits x y) ∧
    exec (.invPred bits data) s = exec (.invPred bits data') s) ∧
  (∀ p e f : Word, e.extractLsb' 0 24 = f.extractLsb' 0 24 → xcolorPixel p e = xcolorPixel p f) ∧
  (∀ p q : Word, p.extractLsb' 8 16 = q.extractLsb' 8 16 → groupIndex p = groupIndex q) ∧
  (∀ (pw w h wb : Nat) (pal pix pix' : List Word), pix.map chG = pix'.map chG →
    invCindex pw w h wb pal pix = invCindex pw w h wb pal pix') ∧
  (∀ (L : Code) (x : Nat), L.length ≤ x → simpleSet L x = L)
end

