-- ==== Sys2Proof/Laws/Memory.lean ====
section
/-! SUPPORT. The laws of the input memory: a read after a write, and the canonical form every operation keeps. -/

namespace Sys2Proof.Machine

/-- The form above a bound holds above any lower one. -/
theorem Memory.wfFrom_mono {lo lo' : Nat} {m : Memory} (h : Memory.wfFrom lo m = true) (hl : lo' ≤ lo) :
    Memory.wfFrom lo' m = true := by
  cases m with
  | nil => rfl
  | cons c t => simp [Memory.wfFrom] at h ⊢; exact ⟨⟨by omega, h.1.2⟩, h.2⟩

/-- An address below every cell reads as unlisted. -/
theorem Memory.read_below {lo a : Nat} {m : Memory} (h : Memory.wfFrom lo m = true) (ha : a < lo) :
    Memory.read m a = Memory.unlisted := by
  induction m generalizing lo with
  | nil => rfl
  | cons c t ih =>
    simp [Memory.wfFrom] at h
    rw [Memory.read, if_neg (by omega)]
    exact ih h.2 (by omega)

/-- A write at or above the bound keeps the form above it. -/
theorem Memory.write_wfFrom {lo a : Nat} {m : Memory} {b : Byte} (h : Memory.wfFrom lo m = true) (ha : lo ≤ a) :
    Memory.wfFrom lo (Memory.write m a b) = true := by
  induction m generalizing lo with
  | nil => unfold Memory.write; split <;> simp [Memory.wfFrom, *]
  | cons c t ih =>
    obtain ⟨c, x⟩ := c
    have h' := h
    simp [Memory.wfFrom] at h
    unfold Memory.write
    split_ifs
    · exact h'
    · simp [Memory.wfFrom, *]
    · exact Memory.wfFrom_mono h.2 (by omega)
    · simp [Memory.wfFrom, *]
    · simp only [Memory.wfFrom, Bool.and_eq_true, decide_eq_true_eq]
      exact ⟨⟨h.1.1, h.1.2⟩, ih h.2 (by omega)⟩

/-- A write keeps the canonical form. -/
theorem Memory.write_wf {m : Memory} {a : Nat} {b : Byte} (h : Memory.wf m = true) :
    Memory.wf (Memory.write m a b) = true := Memory.write_wfFrom h (Nat.zero_le a)

/-- What every address reads as after a write. -/
theorem Memory.read_write_from {lo : Nat} {m : Memory} (h : Memory.wfFrom lo m = true) (a : Nat) (b : Byte) (x : Nat) :
    Memory.read (Memory.write m a b) x = if x = a then b else Memory.read m x := by
  induction m generalizing lo with
  | nil => unfold Memory.write; split_ifs <;> (simp [Memory.read, *]; try omega)
  | cons c t ih =>
    obtain ⟨c, y⟩ := c
    simp [Memory.wfFrom] at h
    have hb := Memory.read_below h.2 (a := a)
    have ht := ih h.2
    by_cases hx : x = a
    · subst hx
      rw [if_pos rfl] at ht ⊢
      unfold Memory.write
      split_ifs with h1 h2 h3 h4
      · rw [Memory.read, if_neg (by omega), hb (by omega), h2]
      · simp [Memory.read]
      · rw [hb (by omega), h4]
      · simp [Memory.read]
      · rw [Memory.read, if_neg (by omega), ht]
    · rw [if_neg hx] at ht ⊢
      unfold Memory.write
      split_ifs with h1 h2 h3 h4 <;> simp [Memory.read, ht]
      · omega
      · intro e; omega
      · split_ifs <;> first | rfl | omega

/-- A read after a write: the byte written at its address, the old byte at every other. -/
theorem Memory.read_write {m : Memory} (h : Memory.wf m = true) (a : Nat) (b : Byte) (x : Nat) :
    Memory.read (Memory.write m a b) x = if x = a then b else Memory.read m x := Memory.read_write_from h a b x

/-- Storing bytes keeps the canonical form. -/
theorem Memory.writeBytes_wf {m : Memory} {a : Nat} (bs : List Byte) (h : Memory.wf m = true) :
    Memory.wf (Memory.writeBytes m a bs) = true := by
  induction bs generalizing m a with
  | nil => exact h
  | cons b bs ih => exact ih (Memory.write_wf h)

/-- The memory at reset is canonical. -/
theorem Memory.reset_wf : State.reset.inMem.wf = true := rfl

end Sys2Proof.Machine
end

