-- ==== Sys2Proof/Laws/State.lean ====
section
/-! SUPPORT. What each named update of the state leaves in each field. -/

namespace Sys2Proof.Machine

/-! ## advance -/

@[simp] theorem advance_params (n : Nat) (s : State) : (advance n s).params = s.params := rfl
@[simp] theorem advance_host (n : Nat) (s : State) : (advance n s).host = s.host := rfl
@[simp] theorem advance_inMem (n : Nat) (s : State) : (advance n s).inMem = s.inMem := rfl
@[simp] theorem advance_inFree (n : Nat) (s : State) : (advance n s).inFree = s.inFree := rfl
@[simp] theorem advance_freeCtr (n : Nat) (s : State) : (advance n s).freeCtr = s.freeCtr := rfl
@[simp] theorem advance_inLen (n : Nat) (s : State) : (advance n s).inLen = s.inLen := rfl
@[simp] theorem advance_expect (n : Nat) (s : State) : (advance n s).expect = s.expect := rfl
@[simp] theorem advance_status (n : Nat) (s : State) : (advance n s).status = s.status := rfl
@[simp] theorem advance_info (n : Nat) (s : State) : (advance n s).info = s.info := rfl
@[simp] theorem advance_pos (n : Nat) (s : State) : (advance n s).pos = s.pos + n := rfl
@[simp] theorem advance_phase (n : Nat) (s : State) : (advance n s).phase = s.phase := rfl
@[simp] theorem advance_hdr (n : Nat) (s : State) : (advance n s).hdr = s.hdr := rfl
@[simp] theorem advance_seen (n : Nat) (s : State) : (advance n s).seen = s.seen := rfl
@[simp] theorem advance_xfs (n : Nat) (s : State) : (advance n s).xfs = s.xfs := rfl
@[simp] theorem advance_xsize (n : Nat) (s : State) : (advance n s).xsize = s.xsize := rfl
@[simp] theorem advance_img0 (n : Nat) (s : State) : (advance n s).img0 = s.img0 := rfl
@[simp] theorem advance_nested (n : Nat) (s : State) : (advance n s).nested = s.nested := rfl
@[simp] theorem advance_stage (n : Nat) (s : State) : (advance n s).stage = s.stage := rfl
@[simp] theorem advance_rowsDone (n : Nat) (s : State) : (advance n s).rowsDone = s.rowsDone := rfl
@[simp] theorem advance_rowsEmitted (n : Nat) (s : State) : (advance n s).rowsEmitted = s.rowsEmitted := rfl
@[simp] theorem advance_emit (n : Nat) (s : State) : (advance n s).emit = s.emit := rfl
@[simp] theorem advance_work (n : Nat) (s : State) : (advance n s).work = s.work := rfl
@[simp] theorem advance_ops (n : Nat) (s : State) : (advance n s).ops = s.ops := rfl
@[simp] theorem advance_res (n : Nat) (s : State) : (advance n s).res = s.res := rfl
@[simp] theorem advance_sink (n : Nat) (s : State) : (advance n s).sink = s.sink := rfl

/-! ## setRes -/

@[simp] theorem setRes_params (r : Result) (s : State) : (setRes r s).params = s.params := rfl
@[simp] theorem setRes_host (r : Result) (s : State) : (setRes r s).host = s.host := rfl
@[simp] theorem setRes_inMem (r : Result) (s : State) : (setRes r s).inMem = s.inMem := rfl
@[simp] theorem setRes_inFree (r : Result) (s : State) : (setRes r s).inFree = s.inFree := rfl
@[simp] theorem setRes_freeCtr (r : Result) (s : State) : (setRes r s).freeCtr = s.freeCtr := rfl
@[simp] theorem setRes_inLen (r : Result) (s : State) : (setRes r s).inLen = s.inLen := rfl
@[simp] theorem setRes_expect (r : Result) (s : State) : (setRes r s).expect = s.expect := rfl
@[simp] theorem setRes_status (r : Result) (s : State) : (setRes r s).status = s.status := rfl
@[simp] theorem setRes_info (r : Result) (s : State) : (setRes r s).info = s.info := rfl
@[simp] theorem setRes_pos (r : Result) (s : State) : (setRes r s).pos = s.pos := rfl
@[simp] theorem setRes_phase (r : Result) (s : State) : (setRes r s).phase = s.phase := rfl
@[simp] theorem setRes_hdr (r : Result) (s : State) : (setRes r s).hdr = s.hdr := rfl
@[simp] theorem setRes_seen (r : Result) (s : State) : (setRes r s).seen = s.seen := rfl
@[simp] theorem setRes_xfs (r : Result) (s : State) : (setRes r s).xfs = s.xfs := rfl
@[simp] theorem setRes_xsize (r : Result) (s : State) : (setRes r s).xsize = s.xsize := rfl
@[simp] theorem setRes_img0 (r : Result) (s : State) : (setRes r s).img0 = s.img0 := rfl
@[simp] theorem setRes_nested (r : Result) (s : State) : (setRes r s).nested = s.nested := rfl
@[simp] theorem setRes_stage (r : Result) (s : State) : (setRes r s).stage = s.stage := rfl
@[simp] theorem setRes_rowsDone (r : Result) (s : State) : (setRes r s).rowsDone = s.rowsDone := rfl
@[simp] theorem setRes_rowsEmitted (r : Result) (s : State) : (setRes r s).rowsEmitted = s.rowsEmitted := rfl
@[simp] theorem setRes_emit (r : Result) (s : State) : (setRes r s).emit = s.emit := rfl
@[simp] theorem setRes_work (r : Result) (s : State) : (setRes r s).work = s.work := rfl
@[simp] theorem setRes_ops (r : Result) (s : State) : (setRes r s).ops = s.ops := rfl
@[simp] theorem setRes_res (r : Result) (s : State) : (setRes r s).res = r := rfl
@[simp] theorem setRes_sink (r : Result) (s : State) : (setRes r s).sink = s.sink := rfl

/-! ## pushXform -/

@[simp] theorem pushXform_params (t : Xform) (s : State) : (pushXform t s).params = s.params := rfl
@[simp] theorem pushXform_host (t : Xform) (s : State) : (pushXform t s).host = s.host := rfl
@[simp] theorem pushXform_inMem (t : Xform) (s : State) : (pushXform t s).inMem = s.inMem := rfl
@[simp] theorem pushXform_inFree (t : Xform) (s : State) : (pushXform t s).inFree = s.inFree := rfl
@[simp] theorem pushXform_freeCtr (t : Xform) (s : State) : (pushXform t s).freeCtr = s.freeCtr := rfl
@[simp] theorem pushXform_inLen (t : Xform) (s : State) : (pushXform t s).inLen = s.inLen := rfl
@[simp] theorem pushXform_expect (t : Xform) (s : State) : (pushXform t s).expect = s.expect := rfl
@[simp] theorem pushXform_status (t : Xform) (s : State) : (pushXform t s).status = s.status := rfl
@[simp] theorem pushXform_info (t : Xform) (s : State) : (pushXform t s).info = s.info := rfl
@[simp] theorem pushXform_pos (t : Xform) (s : State) : (pushXform t s).pos = s.pos := rfl
@[simp] theorem pushXform_phase (t : Xform) (s : State) : (pushXform t s).phase = s.phase := rfl
@[simp] theorem pushXform_hdr (t : Xform) (s : State) : (pushXform t s).hdr = s.hdr := rfl
@[simp] theorem pushXform_seen (t : Xform) (s : State) : (pushXform t s).seen = s.seen := rfl
@[simp] theorem pushXform_xfs (t : Xform) (s : State) : (pushXform t s).xfs = s.xfs ++ [t] := rfl
@[simp] theorem pushXform_xsize (t : Xform) (s : State) : (pushXform t s).xsize = s.xsize := rfl
@[simp] theorem pushXform_img0 (t : Xform) (s : State) : (pushXform t s).img0 = s.img0 := rfl
@[simp] theorem pushXform_nested (t : Xform) (s : State) : (pushXform t s).nested = s.nested := rfl
@[simp] theorem pushXform_stage (t : Xform) (s : State) : (pushXform t s).stage = s.stage := rfl
@[simp] theorem pushXform_rowsDone (t : Xform) (s : State) : (pushXform t s).rowsDone = s.rowsDone := rfl
@[simp] theorem pushXform_rowsEmitted (t : Xform) (s : State) : (pushXform t s).rowsEmitted = s.rowsEmitted := rfl
@[simp] theorem pushXform_emit (t : Xform) (s : State) : (pushXform t s).emit = s.emit := rfl
@[simp] theorem pushXform_work (t : Xform) (s : State) : (pushXform t s).work = s.work := rfl
@[simp] theorem pushXform_ops (t : Xform) (s : State) : (pushXform t s).ops = s.ops := rfl
@[simp] theorem pushXform_res (t : Xform) (s : State) : (pushXform t s).res = s.res := rfl
@[simp] theorem pushXform_sink (t : Xform) (s : State) : (pushXform t s).sink = s.sink := rfl

/-! ## endTransform -/

@[simp] theorem endTransform_params (t : Xform) (s : State) : (endTransform t s).params = s.params := rfl
@[simp] theorem endTransform_host (t : Xform) (s : State) : (endTransform t s).host = s.host := rfl
@[simp] theorem endTransform_inMem (t : Xform) (s : State) : (endTransform t s).inMem = s.inMem := rfl
@[simp] theorem endTransform_inFree (t : Xform) (s : State) : (endTransform t s).inFree = s.inFree := rfl
@[simp] theorem endTransform_freeCtr (t : Xform) (s : State) : (endTransform t s).freeCtr = s.freeCtr := rfl
@[simp] theorem endTransform_inLen (t : Xform) (s : State) : (endTransform t s).inLen = s.inLen := rfl
@[simp] theorem endTransform_expect (t : Xform) (s : State) : (endTransform t s).expect = s.expect := rfl
@[simp] theorem endTransform_status (t : Xform) (s : State) : (endTransform t s).status = s.status := rfl
@[simp] theorem endTransform_info (t : Xform) (s : State) : (endTransform t s).info = s.info := rfl
@[simp] theorem endTransform_pos (t : Xform) (s : State) : (endTransform t s).pos = s.pos := rfl
@[simp] theorem endTransform_phase (t : Xform) (s : State) : (endTransform t s).phase = s.phase := rfl
@[simp] theorem endTransform_hdr (t : Xform) (s : State) : (endTransform t s).hdr = s.hdr := rfl
@[simp] theorem endTransform_seen (t : Xform) (s : State) : (endTransform t s).seen = s.seen := rfl
@[simp] theorem endTransform_xfs (t : Xform) (s : State) : (endTransform t s).xfs = s.xfs ++ [t] := rfl
@[simp] theorem endTransform_xsize (t : Xform) (s : State) : (endTransform t s).xsize = s.xsize := rfl
@[simp] theorem endTransform_img0 (t : Xform) (s : State) : (endTransform t s).img0 = s.img0 := rfl
@[simp] theorem endTransform_nested (t : Xform) (s : State) : (endTransform t s).nested = none := rfl
@[simp] theorem endTransform_stage (t : Xform) (s : State) : (endTransform t s).stage = .xform := rfl
@[simp] theorem endTransform_rowsDone (t : Xform) (s : State) : (endTransform t s).rowsDone = s.rowsDone := rfl
@[simp] theorem endTransform_rowsEmitted (t : Xform) (s : State) : (endTransform t s).rowsEmitted = s.rowsEmitted := rfl
@[simp] theorem endTransform_emit (t : Xform) (s : State) : (endTransform t s).emit = s.emit := rfl
@[simp] theorem endTransform_work (t : Xform) (s : State) : (endTransform t s).work = s.work := rfl
@[simp] theorem endTransform_ops (t : Xform) (s : State) : (endTransform t s).ops = s.ops := rfl
@[simp] theorem endTransform_res (t : Xform) (s : State) : (endTransform t s).res = s.res := rfl
@[simp] theorem endTransform_sink (t : Xform) (s : State) : (endTransform t s).sink = s.sink := rfl

/-! ## beginCodes -/

@[simp] theorem beginCodes_params (m : Img) (s : State) : (beginCodes m s).params = s.params := rfl
@[simp] theorem beginCodes_host (m : Img) (s : State) : (beginCodes m s).host = s.host := rfl
@[simp] theorem beginCodes_inMem (m : Img) (s : State) : (beginCodes m s).inMem = s.inMem := rfl
@[simp] theorem beginCodes_inFree (m : Img) (s : State) : (beginCodes m s).inFree = s.inFree := rfl
@[simp] theorem beginCodes_freeCtr (m : Img) (s : State) : (beginCodes m s).freeCtr = s.freeCtr := rfl
@[simp] theorem beginCodes_inLen (m : Img) (s : State) : (beginCodes m s).inLen = s.inLen := rfl
@[simp] theorem beginCodes_expect (m : Img) (s : State) : (beginCodes m s).expect = s.expect := rfl
@[simp] theorem beginCodes_status (m : Img) (s : State) : (beginCodes m s).status = s.status := rfl
@[simp] theorem beginCodes_info (m : Img) (s : State) : (beginCodes m s).info = s.info := rfl
@[simp] theorem beginCodes_pos (m : Img) (s : State) : (beginCodes m s).pos = s.pos := rfl
@[simp] theorem beginCodes_phase (m : Img) (s : State) : (beginCodes m s).phase = .codes := rfl
@[simp] theorem beginCodes_hdr (m : Img) (s : State) : (beginCodes m s).hdr = s.hdr := rfl
@[simp] theorem beginCodes_seen (m : Img) (s : State) : (beginCodes m s).seen = s.seen := rfl
@[simp] theorem beginCodes_xfs (m : Img) (s : State) : (beginCodes m s).xfs = s.xfs := rfl
@[simp] theorem beginCodes_xsize (m : Img) (s : State) : (beginCodes m s).xsize = s.xsize := rfl
@[simp] theorem beginCodes_img0 (m : Img) (s : State) : (beginCodes m s).img0 = some m := rfl
@[simp] theorem beginCodes_nested (m : Img) (s : State) : (beginCodes m s).nested = none := rfl
@[simp] theorem beginCodes_stage (m : Img) (s : State) : (beginCodes m s).stage = .hcode := rfl
@[simp] theorem beginCodes_rowsDone (m : Img) (s : State) : (beginCodes m s).rowsDone = s.rowsDone := rfl
@[simp] theorem beginCodes_rowsEmitted (m : Img) (s : State) : (beginCodes m s).rowsEmitted = s.rowsEmitted := rfl
@[simp] theorem beginCodes_emit (m : Img) (s : State) : (beginCodes m s).emit = s.emit := rfl
@[simp] theorem beginCodes_work (m : Img) (s : State) : (beginCodes m s).work = s.work := rfl
@[simp] theorem beginCodes_ops (m : Img) (s : State) : (beginCodes m s).ops = s.ops := rfl
@[simp] theorem beginCodes_res (m : Img) (s : State) : (beginCodes m s).res = s.res := rfl
@[simp] theorem beginCodes_sink (m : Img) (s : State) : (beginCodes m s).sink = s.sink := rfl

/-! ## beginBatch -/

@[simp] theorem beginBatch_params (y0 y1 : Nat) (m : Img) (s : State) : (beginBatch y0 y1 m s).params = s.params := rfl
@[simp] theorem beginBatch_host (y0 y1 : Nat) (m : Img) (s : State) : (beginBatch y0 y1 m s).host = s.host := rfl
@[simp] theorem beginBatch_inMem (y0 y1 : Nat) (m : Img) (s : State) : (beginBatch y0 y1 m s).inMem = s.inMem := rfl
@[simp] theorem beginBatch_inFree (y0 y1 : Nat) (m : Img) (s : State) : (beginBatch y0 y1 m s).inFree = s.inFree := rfl
@[simp] theorem beginBatch_freeCtr (y0 y1 : Nat) (m : Img) (s : State) : (beginBatch y0 y1 m s).freeCtr = s.freeCtr := rfl
@[simp] theorem beginBatch_inLen (y0 y1 : Nat) (m : Img) (s : State) : (beginBatch y0 y1 m s).inLen = s.inLen := rfl
@[simp] theorem beginBatch_expect (y0 y1 : Nat) (m : Img) (s : State) : (beginBatch y0 y1 m s).expect = s.expect := rfl
@[simp] theorem beginBatch_status (y0 y1 : Nat) (m : Img) (s : State) : (beginBatch y0 y1 m s).status = s.status := rfl
@[simp] theorem beginBatch_info (y0 y1 : Nat) (m : Img) (s : State) : (beginBatch y0 y1 m s).info = s.info := rfl
@[simp] theorem beginBatch_pos (y0 y1 : Nat) (m : Img) (s : State) : (beginBatch y0 y1 m s).pos = s.pos := rfl
@[simp] theorem beginBatch_phase (y0 y1 : Nat) (m : Img) (s : State) : (beginBatch y0 y1 m s).phase = s.phase := rfl
@[simp] theorem beginBatch_hdr (y0 y1 : Nat) (m : Img) (s : State) : (beginBatch y0 y1 m s).hdr = s.hdr := rfl
@[simp] theorem beginBatch_seen (y0 y1 : Nat) (m : Img) (s : State) : (beginBatch y0 y1 m s).seen = s.seen := rfl
@[simp] theorem beginBatch_xfs (y0 y1 : Nat) (m : Img) (s : State) : (beginBatch y0 y1 m s).xfs = s.xfs := rfl
@[simp] theorem beginBatch_xsize (y0 y1 : Nat) (m : Img) (s : State) : (beginBatch y0 y1 m s).xsize = s.xsize := rfl
@[simp] theorem beginBatch_img0 (y0 y1 : Nat) (m : Img) (s : State) : (beginBatch y0 y1 m s).img0 = s.img0 := rfl
@[simp] theorem beginBatch_nested (y0 y1 : Nat) (m : Img) (s : State) : (beginBatch y0 y1 m s).nested = s.nested := rfl
@[simp] theorem beginBatch_stage (y0 y1 : Nat) (m : Img) (s : State) : (beginBatch y0 y1 m s).stage = s.stage := rfl
@[simp] theorem beginBatch_rowsDone (y0 y1 : Nat) (m : Img) (s : State) : (beginBatch y0 y1 m s).rowsDone = s.rowsDone := rfl
@[simp] theorem beginBatch_rowsEmitted (y0 y1 : Nat) (m : Img) (s : State) : (beginBatch y0 y1 m s).rowsEmitted = s.rowsEmitted := rfl
@[simp] theorem beginBatch_emit (y0 y1 : Nat) (m : Img) (s : State) : (beginBatch y0 y1 m s).emit = .inverting y0 y1 := rfl
@[simp] theorem beginBatch_work (y0 y1 : Nat) (m : Img) (s : State) : (beginBatch y0 y1 m s).work = { w := m.xs, h := y1, pix := m.pix.take (m.xs * y1) } := rfl
@[simp] theorem beginBatch_ops (y0 y1 : Nat) (m : Img) (s : State) : (beginBatch y0 y1 m s).ops = s.ops ++ inverseOps s.xfs := rfl
@[simp] theorem beginBatch_res (y0 y1 : Nat) (m : Img) (s : State) : (beginBatch y0 y1 m s).res = s.res := rfl
@[simp] theorem beginBatch_sink (y0 y1 : Nat) (m : Img) (s : State) : (beginBatch y0 y1 m s).sink = s.sink := rfl

/-! ## discardJob -/

@[simp] theorem discardJob_params (s : State) : (discardJob s).params = s.params := rfl
@[simp] theorem discardJob_host (s : State) : (discardJob s).host = s.host := rfl
@[simp] theorem discardJob_inMem (s : State) : (discardJob s).inMem = s.inMem := rfl
@[simp] theorem discardJob_inFree (s : State) : (discardJob s).inFree = s.inFree := rfl
@[simp] theorem discardJob_freeCtr (s : State) : (discardJob s).freeCtr = s.freeCtr + 1 := rfl
@[simp] theorem discardJob_inLen (s : State) : (discardJob s).inLen = s.inLen := rfl
@[simp] theorem discardJob_expect (s : State) : (discardJob s).expect = s.expect := rfl
@[simp] theorem discardJob_status (s : State) : (discardJob s).status = s.status := rfl
@[simp] theorem discardJob_info (s : State) : (discardJob s).info = s.info := rfl
@[simp] theorem discardJob_pos (s : State) : (discardJob s).pos = s.pos := rfl
@[simp] theorem discardJob_phase (s : State) : (discardJob s).phase = s.phase := rfl
@[simp] theorem discardJob_hdr (s : State) : (discardJob s).hdr = openHdr s.freeCtr := rfl
@[simp] theorem discardJob_seen (s : State) : (discardJob s).seen = BitVec.ofNat 4 (openReg s.freeCtr 5 4) := rfl
@[simp] theorem discardJob_xfs (s : State) : (discardJob s).xfs = [] := rfl
@[simp] theorem discardJob_xsize (s : State) : (discardJob s).xsize = openReg s.freeCtr 4 15 := rfl
@[simp] theorem discardJob_img0 (s : State) : (discardJob s).img0 = none := rfl
@[simp] theorem discardJob_nested (s : State) : (discardJob s).nested = none := rfl
@[simp] theorem discardJob_stage (s : State) : (discardJob s).stage = .idle := rfl
@[simp] theorem discardJob_rowsDone (s : State) : (discardJob s).rowsDone = openReg s.freeCtr 6 15 := rfl
@[simp] theorem discardJob_rowsEmitted (s : State) : (discardJob s).rowsEmitted = openReg s.freeCtr 7 15 := rfl
@[simp] theorem discardJob_emit (s : State) : (discardJob s).emit = .off := rfl
@[simp] theorem discardJob_work (s : State) : (discardJob s).work = { w := 0, h := 0, pix := [] } := rfl
@[simp] theorem discardJob_ops (s : State) : (discardJob s).ops = [] := rfl
@[simp] theorem discardJob_res (s : State) : (discardJob s).res = .nothing := rfl
@[simp] theorem discardJob_sink (s : State) : (discardJob s).sink = s.sink := rfl

/-! ## abortState -/

@[simp] theorem abortState_params (k : Failure) (s : State) : (abortState k s).params = s.params := rfl
@[simp] theorem abortState_host (k : Failure) (s : State) : (abortState k s).host = s.host := rfl
@[simp] theorem abortState_inMem (k : Failure) (s : State) : (abortState k s).inMem = s.inMem := rfl
@[simp] theorem abortState_inFree (k : Failure) (s : State) : (abortState k s).inFree = s.inFree := rfl
@[simp] theorem abortState_freeCtr (k : Failure) (s : State) : (abortState k s).freeCtr = s.freeCtr + 1 := rfl
@[simp] theorem abortState_inLen (k : Failure) (s : State) : (abortState k s).inLen = s.inLen := rfl
@[simp] theorem abortState_expect (k : Failure) (s : State) : (abortState k s).expect = s.expect := rfl
@[simp] theorem abortState_status (k : Failure) (s : State) : (abortState k s).status = statusFailed k := rfl
@[simp] theorem abortState_info (k : Failure) (s : State) : (abortState k s).info = s.info := rfl
@[simp] theorem abortState_pos (k : Failure) (s : State) : (abortState k s).pos = s.pos := rfl
@[simp] theorem abortState_phase (k : Failure) (s : State) : (abortState k s).phase = .error := rfl
@[simp] theorem abortState_hdr (k : Failure) (s : State) : (abortState k s).hdr = openHdr s.freeCtr := rfl
@[simp] theorem abortState_seen (k : Failure) (s : State) : (abortState k s).seen = BitVec.ofNat 4 (openReg s.freeCtr 5 4) := rfl
@[simp] theorem abortState_xfs (k : Failure) (s : State) : (abortState k s).xfs = [] := rfl
@[simp] theorem abortState_xsize (k : Failure) (s : State) : (abortState k s).xsize = openReg s.freeCtr 4 15 := rfl
@[simp] theorem abortState_img0 (k : Failure) (s : State) : (abortState k s).img0 = none := rfl
@[simp] theorem abortState_nested (k : Failure) (s : State) : (abortState k s).nested = none := rfl
@[simp] theorem abortState_stage (k : Failure) (s : State) : (abortState k s).stage = .idle := rfl
@[simp] theorem abortState_rowsDone (k : Failure) (s : State) : (abortState k s).rowsDone = openReg s.freeCtr 6 15 := rfl
@[simp] theorem abortState_rowsEmitted (k : Failure) (s : State) : (abortState k s).rowsEmitted = openReg s.freeCtr 7 15 := rfl
@[simp] theorem abortState_emit (k : Failure) (s : State) : (abortState k s).emit = .off := rfl
@[simp] theorem abortState_work (k : Failure) (s : State) : (abortState k s).work = { w := 0, h := 0, pix := [] } := rfl
@[simp] theorem abortState_ops (k : Failure) (s : State) : (abortState k s).ops = [] := rfl
@[simp] theorem abortState_res (k : Failure) (s : State) : (abortState k s).res = .nothing := rfl
@[simp] theorem abortState_sink (k : Failure) (s : State) : (abortState k s).sink = { s.sink with whole := false } := rfl

/-! ## finishJob -/

@[simp] theorem finishJob_params (s : State) : (finishJob s).params = s.params := rfl
@[simp] theorem finishJob_host (s : State) : (finishJob s).host = s.host := rfl
@[simp] theorem finishJob_inMem (s : State) : (finishJob s).inMem = s.inMem := rfl
@[simp] theorem finishJob_inFree (s : State) : (finishJob s).inFree = s.inFree := rfl
@[simp] theorem finishJob_freeCtr (s : State) : (finishJob s).freeCtr = s.freeCtr + 1 := rfl
@[simp] theorem finishJob_inLen (s : State) : (finishJob s).inLen = s.inLen := rfl
@[simp] theorem finishJob_expect (s : State) : (finishJob s).expect = s.expect := rfl
@[simp] theorem finishJob_status (s : State) : (finishJob s).status = statusDone := rfl
@[simp] theorem finishJob_info (s : State) : (finishJob s).info = s.info := rfl
@[simp] theorem finishJob_pos (s : State) : (finishJob s).pos = s.pos := rfl
@[simp] theorem finishJob_phase (s : State) : (finishJob s).phase = .done := rfl
@[simp] theorem finishJob_hdr (s : State) : (finishJob s).hdr = openHdr s.freeCtr := rfl
@[simp] theorem finishJob_seen (s : State) : (finishJob s).seen = BitVec.ofNat 4 (openReg s.freeCtr 5 4) := rfl
@[simp] theorem finishJob_xfs (s : State) : (finishJob s).xfs = [] := rfl
@[simp] theorem finishJob_xsize (s : State) : (finishJob s).xsize = openReg s.freeCtr 4 15 := rfl
@[simp] theorem finishJob_img0 (s : State) : (finishJob s).img0 = none := rfl
@[simp] theorem finishJob_nested (s : State) : (finishJob s).nested = none := rfl
@[simp] theorem finishJob_stage (s : State) : (finishJob s).stage = .idle := rfl
@[simp] theorem finishJob_rowsDone (s : State) : (finishJob s).rowsDone = openReg s.freeCtr 6 15 := rfl
@[simp] theorem finishJob_rowsEmitted (s : State) : (finishJob s).rowsEmitted = s.hdr.h := rfl
@[simp] theorem finishJob_emit (s : State) : (finishJob s).emit = .off := rfl
@[simp] theorem finishJob_work (s : State) : (finishJob s).work = { w := 0, h := 0, pix := [] } := rfl
@[simp] theorem finishJob_ops (s : State) : (finishJob s).ops = [] := rfl
@[simp] theorem finishJob_res (s : State) : (finishJob s).res = .nothing := rfl
@[simp] theorem finishJob_sink (s : State) : (finishJob s).sink = { s.sink with whole := true } := rfl

/-! ## startJob -/

@[simp] theorem startJob_params (s : State) : (startJob s).params = s.params := rfl
@[simp] theorem startJob_host (s : State) : (startJob s).host = s.host := rfl
@[simp] theorem startJob_inMem (s : State) : (startJob s).inMem = s.inMem := rfl
@[simp] theorem startJob_inFree (s : State) : (startJob s).inFree = none := rfl
@[simp] theorem startJob_freeCtr (s : State) : (startJob s).freeCtr = s.freeCtr + 1 := rfl
@[simp] theorem startJob_inLen (s : State) : (startJob s).inLen = s.inLen := rfl
@[simp] theorem startJob_expect (s : State) : (startJob s).expect = s.expect := rfl
@[simp] theorem startJob_status (s : State) : (startJob s).status = statusBusy := rfl
@[simp] theorem startJob_info (s : State) : (startJob s).info = 0 := rfl
@[simp] theorem startJob_pos (s : State) : (startJob s).pos = 0 := rfl
@[simp] theorem startJob_phase (s : State) : (startJob s).phase = .header := rfl
@[simp] theorem startJob_hdr (s : State) : (startJob s).hdr = openHdr s.freeCtr := rfl
@[simp] theorem startJob_seen (s : State) : (startJob s).seen = 0 := rfl
@[simp] theorem startJob_xfs (s : State) : (startJob s).xfs = [] := rfl
@[simp] theorem startJob_xsize (s : State) : (startJob s).xsize = openReg s.freeCtr 4 15 := rfl
@[simp] theorem startJob_img0 (s : State) : (startJob s).img0 = none := rfl
@[simp] theorem startJob_nested (s : State) : (startJob s).nested = none := rfl
@[simp] theorem startJob_stage (s : State) : (startJob s).stage = .header := rfl
@[simp] theorem startJob_rowsDone (s : State) : (startJob s).rowsDone = 0 := rfl
@[simp] theorem startJob_rowsEmitted (s : State) : (startJob s).rowsEmitted = 0 := rfl
@[simp] theorem startJob_emit (s : State) : (startJob s).emit = .off := rfl
@[simp] theorem startJob_work (s : State) : (startJob s).work = { w := 0, h := 0, pix := [] } := rfl
@[simp] theorem startJob_ops (s : State) : (startJob s).ops = [] := rfl
@[simp] theorem startJob_res (s : State) : (startJob s).res = .nothing := rfl
@[simp] theorem startJob_sink (s : State) : (startJob s).sink = s.sink := rfl

/-! ## hardReset -/

@[simp] theorem hardReset_params (s : State) : (hardReset s).params = s.params := rfl
@[simp] theorem hardReset_host (s : State) : (hardReset s).host = s.host := rfl
@[simp] theorem hardReset_inMem (s : State) : (hardReset s).inMem = s.inMem := rfl
@[simp] theorem hardReset_inFree (s : State) : (hardReset s).inFree = State.reset.inFree := rfl
@[simp] theorem hardReset_freeCtr (s : State) : (hardReset s).freeCtr = s.freeCtr + 1 := rfl
@[simp] theorem hardReset_inLen (s : State) : (hardReset s).inLen = State.reset.inLen := rfl
@[simp] theorem hardReset_expect (s : State) : (hardReset s).expect = State.reset.expect := rfl
@[simp] theorem hardReset_status (s : State) : (hardReset s).status = State.reset.status := rfl
@[simp] theorem hardReset_info (s : State) : (hardReset s).info = State.reset.info := rfl
@[simp] theorem hardReset_pos (s : State) : (hardReset s).pos = State.reset.pos := rfl
@[simp] theorem hardReset_phase (s : State) : (hardReset s).phase = State.reset.phase := rfl
@[simp] theorem hardReset_hdr (s : State) : (hardReset s).hdr = State.reset.hdr := rfl
@[simp] theorem hardReset_seen (s : State) : (hardReset s).seen = State.reset.seen := rfl
@[simp] theorem hardReset_xfs (s : State) : (hardReset s).xfs = State.reset.xfs := rfl
@[simp] theorem hardReset_xsize (s : State) : (hardReset s).xsize = State.reset.xsize := rfl
@[simp] theorem hardReset_img0 (s : State) : (hardReset s).img0 = State.reset.img0 := rfl
@[simp] theorem hardReset_nested (s : State) : (hardReset s).nested = State.reset.nested := rfl
@[simp] theorem hardReset_stage (s : State) : (hardReset s).stage = State.reset.stage := rfl
@[simp] theorem hardReset_rowsDone (s : State) : (hardReset s).rowsDone = State.reset.rowsDone := rfl
@[simp] theorem hardReset_rowsEmitted (s : State) : (hardReset s).rowsEmitted = State.reset.rowsEmitted := rfl
@[simp] theorem hardReset_emit (s : State) : (hardReset s).emit = State.reset.emit := rfl
@[simp] theorem hardReset_work (s : State) : (hardReset s).work = State.reset.work := rfl
@[simp] theorem hardReset_ops (s : State) : (hardReset s).ops = State.reset.ops := rfl
@[simp] theorem hardReset_res (s : State) : (hardReset s).res = State.reset.res := rfl
@[simp] theorem hardReset_sink (s : State) : (hardReset s).sink = { s.sink with whole := s.sink.whole && !isBusy s } := rfl

/-! ## setCurImg -/

@[simp] theorem setCurImg_params (m : Img) (s : State) : (setCurImg m s).params = s.params := by
  unfold setCurImg; split <;> rfl
@[simp] theorem setCurImg_host (m : Img) (s : State) : (setCurImg m s).host = s.host := by
  unfold setCurImg; split <;> rfl
@[simp] theorem setCurImg_inMem (m : Img) (s : State) : (setCurImg m s).inMem = s.inMem := by
  unfold setCurImg; split <;> rfl
@[simp] theorem setCurImg_inFree (m : Img) (s : State) : (setCurImg m s).inFree = s.inFree := by
  unfold setCurImg; split <;> rfl
@[simp] theorem setCurImg_freeCtr (m : Img) (s : State) : (setCurImg m s).freeCtr = s.freeCtr := by
  unfold setCurImg; split <;> rfl
@[simp] theorem setCurImg_inLen (m : Img) (s : State) : (setCurImg m s).inLen = s.inLen := by
  unfold setCurImg; split <;> rfl
@[simp] theorem setCurImg_expect (m : Img) (s : State) : (setCurImg m s).expect = s.expect := by
  unfold setCurImg; split <;> rfl
@[simp] theorem setCurImg_status (m : Img) (s : State) : (setCurImg m s).status = s.status := by
  unfold setCurImg; split <;> rfl
@[simp] theorem setCurImg_info (m : Img) (s : State) : (setCurImg m s).info = s.info := by
  unfold setCurImg; split <;> rfl
@[simp] theorem setCurImg_pos (m : Img) (s : State) : (setCurImg m s).pos = s.pos := by
  unfold setCurImg; split <;> rfl
@[simp] theorem setCurImg_phase (m : Img) (s : State) : (setCurImg m s).phase = s.phase := by
  unfold setCurImg; split <;> rfl
@[simp] theorem setCurImg_hdr (m : Img) (s : State) : (setCurImg m s).hdr = s.hdr := by
  unfold setCurImg; split <;> rfl
@[simp] theorem setCurImg_seen (m : Img) (s : State) : (setCurImg m s).seen = s.seen := by
  unfold setCurImg; split <;> rfl
@[simp] theorem setCurImg_xfs (m : Img) (s : State) : (setCurImg m s).xfs = s.xfs := by
  unfold setCurImg; split <;> rfl
@[simp] theorem setCurImg_xsize (m : Img) (s : State) : (setCurImg m s).xsize = s.xsize := by
  unfold setCurImg; split <;> rfl
@[simp] theorem setCurImg_stage (m : Img) (s : State) : (setCurImg m s).stage = s.stage := by
  unfold setCurImg; split <;> rfl
@[simp] theorem setCurImg_rowsDone (m : Img) (s : State) : (setCurImg m s).rowsDone = s.rowsDone := by
  unfold setCurImg; split <;> rfl
@[simp] theorem setCurImg_rowsEmitted (m : Img) (s : State) : (setCurImg m s).rowsEmitted = s.rowsEmitted := by
  unfold setCurImg; split <;> rfl
@[simp] theorem setCurImg_emit (m : Img) (s : State) : (setCurImg m s).emit = s.emit := by
  unfold setCurImg; split <;> rfl
@[simp] theorem setCurImg_work (m : Img) (s : State) : (setCurImg m s).work = s.work := by
  unfold setCurImg; split <;> rfl
@[simp] theorem setCurImg_ops (m : Img) (s : State) : (setCurImg m s).ops = s.ops := by
  unfold setCurImg; split <;> rfl
@[simp] theorem setCurImg_res (m : Img) (s : State) : (setCurImg m s).res = s.res := by
  unfold setCurImg; split <;> rfl
@[simp] theorem setCurImg_sink (m : Img) (s : State) : (setCurImg m s).sink = s.sink := by
  unfold setCurImg; split <;> rfl

/-- A nested image stays the one being decoded, for the same use; without one, none appears. -/
@[simp] theorem setCurImg_nested (m : Img) (s : State) :
    (setCurImg m s).nested = s.nested.map fun n => { n with img := m } := by
  unfold setCurImg; split <;> simp [*]

/-- Level 0 changes only when no nested image is being decoded. -/
@[simp] theorem setCurImg_img0 (m : Img) (s : State) :
    (setCurImg m s).img0 = if s.nested.isSome then s.img0 else some m := by
  unfold setCurImg; split <;> simp [*]

/-- The context being decoded is the one just set. -/
@[simp] theorem curImg_setCurImg (m : Img) (s : State) : curImg (setCurImg m s) = some m := by
  unfold curImg; rw [setCurImg_nested]; cases h : s.nested <;> simp [h]

@[simp] theorem curImg_advance (n : Nat) (s : State) : curImg (advance n s) = curImg s := rfl

@[simp] theorem curImg_setRes (r : Result) (s : State) : curImg (setRes r s) = curImg s := rfl

end Sys2Proof.Machine
end

