-- ==== Sys2Proof/Laws/Ops.lean ====
section
/-! SUPPORT. One lemma for each shared operation: everything it can do when it answers a next state. -/

namespace Sys2Proof.Machine

/-! ## Guards -/

theorem whenStage_next {ok : Bool} {k : Out} {t : State} : whenStage ok k = .next t ↔ ok = true ∧ k = .next t := by
  unfold whenStage; split <;> simp [*]

theorem withImg_next {s t : State} {k : Img → Out} :
    withImg s k = .next t ↔ ∃ m, curImg s = some m ∧ k m = .next t := by
  unfold withImg; cases curImg s <;> simp

theorem abort_next {k : Failure} {s t : State} : abort k s = .next t ↔ t = abortState k s := by
  unfold abort; simp [eq_comm]

theorem atMaxsym_next {s t : State} {k : Code → Nat → Out} :
    atMaxsym s k = .next t ↔ ∃ cl m, s.stage = .maxsym cl ∧ curImg s = some m ∧ k cl (nextAlphabet m) = .next t := by
  unfold atMaxsym; cases s.stage <;> simp [withImg_next]

theorem atToken_next {s t : State} {k : Code → List Nat → Nat → Nat → Img → Out} :
    atToken s k = .next t ↔ ∃ cl lens left prev m, s.stage = .token cl lens left prev ∧ curImg s = some m
      ∧ k cl lens left prev m = .next t := by
  unfold atToken
  cases h : s.stage with
  | token cl lens left prev =>
    simp only [withImg_next]
    constructor
    · rintro ⟨m, hm, hk⟩; exact ⟨cl, lens, left, prev, m, rfl, hm, hk⟩
    · rintro ⟨_, _, _, _, m, ⟨rfl, rfl, rfl, rfl⟩, hm, hk⟩; exact ⟨m, hm, hk⟩
  | _ => simp

theorem atPixel_next {s t : State} {k : Img → Code × Code × Code × Code × Code → Out} :
    atPixel s k = .next t ↔ s.stage = .pixel ∧ ∃ m cs, curImg s = some m ∧ m.pos < m.size ∧ pixelCodes m = some cs
      ∧ k m cs = .next t := by
  simp only [atPixel, whenStage_next, withImg_next, decide_eq_true_eq]
  constructor
  · rintro ⟨h, m, hm, hk⟩
    split_ifs at hk with hp
    cases hc : pixelCodes m with
    | none => simp [hc] at hk
    | some cs => exact ⟨h, m, cs, hm, hp, hc, by simpa [hc] using hk⟩
  · rintro ⟨h, m, cs, hm, hp, hc, hk⟩
    exact ⟨h, m, hm, by simp [hp, hc, hk]⟩

/-! ## Transform records and image contexts -/

/-- `SUB(xs, 0)` is `xs`: without a meta image `META.XS` is `IMG.XS`. -/
@[simp] theorem noMap_eq (xs : Nat) : noMap xs = { bits := 0, xs := xs, idx := [] } := by simp [noMap, subSize]

theorem beginXform_next {k : XKind} {body : State → Out} {s t : State} :
    beginXform k body s = .next t ↔ s.stage = .xform ∧
      ((wasSeen s.seen k = true ∧ t = abortState .invalidTransform (advance 3 s)) ∨
        (wasSeen s.seen k = false ∧ body { s with seen := markSeen s.seen k } = .next t)) := by
  simp only [beginXform, whenStage_next, decide_eq_true_eq]
  split_ifs with h <;> simp [h, abort_next]

theorem openNested_next {u : SubUse} {xs ys : Nat} {s t : State} :
    openNested u xs ys s = .next t ↔ xs * ys ≤ s.params.pixMax ∧
      t = { s with nested := some { use := u, img := freshImg xs ys false }, stage := .ccache } := by
  unfold openNested tooLarge; split_ifs with h <;> simp at h <;> simp [eq_comm] <;> omega

/-! ## Prefix codes -/

theorem finishCode_next {L : Code} {m : Img} {s t : State} :
    finishCode L m s = .next t ↔
      (isEos s = true ∧ t = abortState .unexpectedEndOfStream s) ∨
        (isEos s = false ∧ validCode L = false ∧ t = abortState .invalidHuffmanCode s) ∨
        (isEos s = false ∧ validCode L = true ∧ t = pushCode L m s) := by
  unfold finishCode; split_ifs with h h' <;> simp [h, abort_next] <;> simp [h'] <;> exact eq_comm

theorem nextToken_next {cl : Code} {lens : List Nat} {left prev : Nat} {m : Img} {s t : State} :
    nextToken cl lens left prev m s = .next t ↔
      (lens.length < nextAlphabet m ∧ left ≠ 0 ∧ t = { s with stage := .token cl lens left prev }) ∨
        ((nextAlphabet m ≤ lens.length ∨ left = 0) ∧
          finishCode (lens ++ List.replicate (nextAlphabet m - lens.length) 0) m s = .next t) := by
  unfold nextToken
  split_ifs with h
  · have : ¬ nextAlphabet m ≤ lens.length := by omega
    simp [h, this, eq_comm]
  · have : nextAlphabet m ≤ lens.length ∨ left = 0 := by omega
    simp only [this, true_and]
    constructor
    · exact .inr
    · rintro (⟨a, b, _⟩ | h')
      · exact absurd ⟨a, b⟩ h
      · exact h'

theorem simpleCode_next {xs : List Nat} {n : Nat} {s t : State} :
    simpleCode xs n s = .next t ↔ s.stage = .hcode ∧ ∃ m, curImg s = some m ∧
      finishCode (xs.foldl simpleSet (List.replicate (nextAlphabet m) 0)) m (advance n s) = .next t := by
  simp [simpleCode, whenStage_next, withImg_next]

theorem runToken_next {tok eb rep : Nat} {len : Nat → Nat} {s t : State} :
    runToken tok eb rep len s = .next t ↔ ∃ cl lens left prev m,
      s.stage = .token cl lens left prev ∧ curImg s = some m ∧
      ((nextAlphabet m < lens.length + rep ∧
          t = abortState .invalidHuffmanCode (advance (symbolBits cl tok + eb) s)) ∨
        (lens.length + rep ≤ nextAlphabet m ∧
          nextToken cl (lens ++ List.replicate rep (len prev)) (left - 1) prev m
            (advance (symbolBits cl tok + eb) s) = .next t)) := by
  simp only [runToken, atToken_next]
  refine exists_congr fun cl => exists_congr fun lens => exists_congr fun left => exists_congr fun prev =>
    exists_congr fun m => and_congr_right fun _ => and_congr_right fun _ => ?_
  split_ifs with h
  · simp [abort_next, h, Nat.not_le.mpr h]
  · simp [h, Nat.not_lt.mp h]

/-- Setting a length keeps the alphabet's size. -/
@[simp] theorem simpleSet_length (L : Code) (x : Nat) : (simpleSet L x).length = L.length := by simp [simpleSet]

/-- A simple code has its alphabet's size. -/
theorem foldl_simpleSet_length (xs : List Nat) (L : Code) : (xs.foldl simpleSet L).length = L.length := by
  induction xs generalizing L with
  | nil => rfl
  | cons x xs ih => simp [ih]

/-- The code-length code covers the 19 tokens. -/
theorem clLengths_length (lens : List (BitVec 3)) : (clLengths lens).length = 19 := by
  unfold clLengths
  generalize clOrder.zip lens = l
  have : ∀ (l : List (Nat × BitVec 3)) (cl : Code),
      (l.foldl (fun cl tl => cl.set tl.1 tl.2.toNat) cl).length = cl.length := by
    intro l
    induction l with
    | nil => intro _; rfl
    | cons x xs ih => intro cl; simp [ih]
  simp [this]

/-! ## The pixel stream -/

theorem finishElement_next {m : Img} {s t : State} :
    finishElement m s = .next t ↔
      (isEos s = true ∧ t = abortState .unexpectedEndOfStream s) ∨
        (isEos s = false ∧ m.level0 = true ∧ t = { setCurImg m s with rowsDone := m.pos / m.xs }) ∨
        (isEos s = false ∧ m.level0 = false ∧ t = setCurImg m s) := by
  unfold finishElement; split_ifs with h h' <;> simp [h, abort_next] <;> simp [h'] <;> exact eq_comm

/-- Insertion keeps the cache's size. -/
@[simp] theorem CCache.insert_bits (cc : CCache) (v : Word) : (cc.insert v).bits = cc.bits := rfl

@[simp] theorem CCache.insert_length (cc : CCache) (v : Word) : (cc.insert v).arr.length = cc.arr.length := by
  simp [CCache.insert]

/-- Emit writes one pixel and changes nothing but the cache beside it (R222). -/
theorem Img.emit_eq (m : Img) (v : Word) :
    m.emit v = { m with pix := m.pix ++ [v], cc := (m.emit v).cc } := rfl

@[simp] theorem Img.emit_pix (m : Img) (v : Word) : (m.emit v).pix = m.pix ++ [v] := rfl

@[simp] theorem Img.emit_bits (m : Img) (v : Word) : (m.emit v).cc.bits = m.cc.bits := by
  simp only [Img.emit]; split <;> rfl

@[simp] theorem Img.emit_arr_length (m : Img) (v : Word) : (m.emit v).cc.arr.length = m.cc.arr.length := by
  simp only [Img.emit]; split <;> simp

/-- A copy appends `len` pixels and changes nothing but the cache's slots beside them (R224). -/
theorem Img.copy_spec (len dist : Nat) (m : Img) :
    ∃ new : List Word, new.length = len ∧
      m.copy dist len = { m with pix := m.pix ++ new, cc := (m.copy dist len).cc } ∧
      (m.copy dist len).cc.bits = m.cc.bits ∧ (m.copy dist len).cc.arr.length = m.cc.arr.length := by
  induction len generalizing m with
  | zero => exact ⟨[], rfl, by simp [Img.copy], rfl, rfl⟩
  | succ n ih =>
    obtain ⟨new, h1, h2, h3, h4⟩ := ih (m.emit (pixAt m.pix (m.pos - dist)))
    refine ⟨pixAt m.pix (m.pos - dist) :: new, by simp [h1], ?_, ?_, ?_⟩
    · rw [Img.copy, h2]; simp [Img.emit]
    · rw [Img.copy, h3]; simp
    · rw [Img.copy, h4]; simp

/-- The distance map has its 120 entries (R229). -/
theorem distMap_length : distMap.length = 120 := by decide

/-- A distance is at least 1 (R228). -/
theorem one_le_planeToDist (xs plane : Nat) : 1 ≤ planeToDist xs plane := by
  unfold planeToDist
  split
  · omega
  · dsimp only; split <;> omega

/-- A prefix value is at least 1 (R226). -/
theorem one_le_prefixValue (s e : Nat) : 1 ≤ prefixValue s e := by unfold prefixValue; split <;> simp

/-! ## The transforms -/

/-- The inverse predictor keeps the pixels it has and adds one per residual (R267). -/
theorem invPredFrom_length (w bits : Nat) (data res out : List Word) :
    (invPredFrom w bits data res out).length = out.length + res.length := by
  induction res generalizing out with
  | nil => rfl
  | cons r rs ih => simp [invPredFrom, ih]; omega

@[simp] theorem invPred_length (w bits : Nat) (data res : List Word) : (invPred w bits data res).length = res.length := by
  simp [invPred, invPredFrom_length]

@[simp] theorem invXcolor_length (w bits : Nat) (data pix : List Word) :
    (invXcolor w bits data pix).length = pix.length := by simp [invXcolor]

@[simp] theorem invCindex_length (pw w h wb : Nat) (pal pix : List Word) :
    (invCindex pw w h wb pal pix).length = h * w := by simp [invCindex, List.length_flatMap]

@[simp] theorem paletteSums_length (prev : Word) (pal : List Word) : (paletteSums prev pal).length = pal.length := by
  induction pal generalizing prev with
  | nil => rfl
  | cons p ps ih => simp [paletteSums, ih]

/-- `subSize` is division by the tile's side, rounded up (R8). -/
theorem subSize_eq (s b : Nat) : subSize s b = (s + 2 ^ b - 1) / 2 ^ b := by
  simp [subSize, Nat.shiftRight_eq_div_pow]

end Sys2Proof.Machine
end

