-- ==== Sys2Proof/Laws/PerInstr.lean ====
section
/-! SUPPORT. Per-instruction laws. `ElementLength`: the length of every element's encoding (spec/30_encoding.md R93). -/

namespace Sys2Proof

/-- The bits of a list of bits. -/
@[simp] theorem bitsOf_length (n v : Nat) : (bitsOf n v).length = n := by simp [bitsOf]

/-- A prefix-coded symbol takes its code's bits for it (R93). -/
@[simp] theorem encodeSymbol_length (L : Code) (s : Nat) : (encodeSymbol L s).length = symbolBits L s := by
  simp [encodeSymbol]

/-- The number of bits of an element in a context that admits it (R93). -/
def elementBits (c : Ctx) (i : Instr) : Nat :=
  match i, c with
  | .hdr _ _ _ _ _, _ => 40
  | .xformEnd, _ | .ccacheOff, _ | .metaOff, _ | .maxsymOff, _ => 1
  | .xformPred _, _ | .xformXcolor _, _ => 6
  | .xformSubgreen, _ => 3
  | .xformCindex _, _ => 11
  | .ccacheOn _, _ => 5
  | .metaOn _, _ => 4
  | .hcodeS1b1 _, _ => 4
  | .hcodeS1b8 _, _ => 11
  | .hcodeS2b1 _ _, _ => 12
  | .hcodeS2b8 _ _, _ => 19
  | .hcodeNormal k _, _ => 5 + 3 * (k.toNat + 4)
  | .maxsymOn n _, _ => 4 + (2 + 2 * n.toNat)
  | .clLit tok, .token cl => symbolBits cl tok.toNat
  | .clRep16 _, .token cl => symbolBits cl 16 + 2
  | .clZero17 _, .token cl => symbolBits cl 17 + 3
  | .clZero18 _, .token cl => symbolBits cl 18 + 7
  | .pxLiteral g r b a, .pixel green red blue alpha _ =>
    symbolBits green g.toNat + symbolBits red r.toNat + symbolBits blue b.toNat + symbolBits alpha a.toNat
  | .pxBackref g _ d _, .pixel green _ _ _ dist =>
    symbolBits green g + extraBits (g - 256) + symbolBits dist d + extraBits d
  | .pxCache g, .pixel green _ _ _ _ => symbolBits green g
  | _, _ => 0

namespace Laws.ElementLength

/-- The encoding of a well-formed element has the length of R93 in every context that admits it. -/
def Statement (i : Instr) : Prop :=
  ∀ c : Ctx, i.wf = true → c.admits i = true → (encode c i).length = elementBits c i

theorem hdr (magic : BitVec 8) (w h : BitVec 14) (a : BitVec 1) (v : BitVec 3) : Statement (.hdr magic w h a v) := by
  intro c _ ha; cases c <;> first | exact Bool.noConfusion ha | rfl

theorem xformEnd : Statement (.xformEnd) := by
  intro c _ ha; cases c <;> first | exact Bool.noConfusion ha | rfl

theorem xformPred (b : BitVec 3) : Statement (.xformPred b) := by
  intro c _ ha; cases c <;> first | exact Bool.noConfusion ha | rfl

theorem xformXcolor (b : BitVec 3) : Statement (.xformXcolor b) := by
  intro c _ ha; cases c <;> first | exact Bool.noConfusion ha | rfl

theorem xformSubgreen : Statement (.xformSubgreen) := by
  intro c _ ha; cases c <;> first | exact Bool.noConfusion ha | rfl

theorem xformCindex (n : BitVec 8) : Statement (.xformCindex n) := by
  intro c _ ha; cases c <;> first | exact Bool.noConfusion ha | rfl

theorem ccacheOff : Statement (.ccacheOff) := by
  intro c _ ha; cases c <;> first | exact Bool.noConfusion ha | rfl

theorem ccacheOn (c : BitVec 4) : Statement (.ccacheOn c) := by
  intro c _ ha; cases c <;> first | exact Bool.noConfusion ha | rfl

theorem metaOff : Statement (.metaOff) := by
  intro c _ ha; cases c <;> first | exact Bool.noConfusion ha | rfl

theorem metaOn (b : BitVec 3) : Statement (.metaOn b) := by
  intro c _ ha; cases c <;> first | exact Bool.noConfusion ha | rfl

theorem hcodeS1b1 (x : BitVec 1) : Statement (.hcodeS1b1 x) := by
  intro c _ ha; cases c <;> first | exact Bool.noConfusion ha | rfl

theorem hcodeS1b8 (x : BitVec 8) : Statement (.hcodeS1b8 x) := by
  intro c _ ha; cases c <;> first | exact Bool.noConfusion ha | rfl

theorem hcodeS2b1 (x : BitVec 1) (y : BitVec 8) : Statement (.hcodeS2b1 x y) := by
  intro c _ ha; cases c <;> first | exact Bool.noConfusion ha | rfl

theorem hcodeS2b8 (x y : BitVec 8) : Statement (.hcodeS2b8 x y) := by
  intro c _ ha; cases c <;> first | exact Bool.noConfusion ha | rfl

theorem hcodeNormal (k : BitVec 4) (lens : List (BitVec 3)) : Statement (.hcodeNormal k lens) := by
  intro c h ha
  have hl : lens.length = k.toNat + 4 := by simpa [Instr.wf] using h
  have hs : ∀ l : List (BitVec 3), (l.flatMap fun x => bitsOf 3 x.toNat).length = 3 * l.length := by
    intro l; induction l with
    | nil => rfl
    | cons x xs ih => simp only [List.flatMap_cons, List.length_append, bitsOf_length, ih, List.length_cons]; omega
  cases c
  case hcode =>
    change ([false] ++ bitsOf 4 k.toNat ++ lens.flatMap fun l => bitsOf 3 l.toNat).length = 5 + 3 * (k.toNat + 4)
    simp only [List.length_append, bitsOf_length, hs, hl, List.length_singleton]
  all_goals exact Bool.noConfusion ha

theorem maxsymOff : Statement (.maxsymOff) := by
  intro c _ ha; cases c <;> first | exact Bool.noConfusion ha | rfl

theorem maxsymOn (n : BitVec 3) (m : Nat) : Statement (.maxsymOn n m) := by
  intro c _ ha; cases c
  case maxsym =>
    change ([true] ++ bitsOf 3 n.toNat ++ bitsOf (2 + 2 * n.toNat) m).length = 4 + (2 + 2 * n.toNat)
    simp only [List.length_append, bitsOf_length, List.length_singleton]
  all_goals exact Bool.noConfusion ha

theorem clLit (tok : BitVec 4) : Statement (.clLit tok) := by
  intro c _ ha; cases c <;> first | exact Bool.noConfusion ha | exact encodeSymbol_length _ _

theorem clRep16 (e : BitVec 2) : Statement (.clRep16 e) := by
  intro c _ ha; cases c
  case token =>
    change (encodeSymbol _ 16 ++ bitsOf 2 e.toNat).length = symbolBits _ 16 + 2
    simp only [List.length_append, bitsOf_length, encodeSymbol_length]
  all_goals exact Bool.noConfusion ha

theorem clZero17 (e : BitVec 3) : Statement (.clZero17 e) := by
  intro c _ ha; cases c
  case token =>
    change (encodeSymbol _ 17 ++ bitsOf 3 e.toNat).length = symbolBits _ 17 + 3
    simp only [List.length_append, bitsOf_length, encodeSymbol_length]
  all_goals exact Bool.noConfusion ha

theorem clZero18 (e : BitVec 7) : Statement (.clZero18 e) := by
  intro c _ ha; cases c
  case token =>
    change (encodeSymbol _ 18 ++ bitsOf 7 e.toNat).length = symbolBits _ 18 + 7
    simp only [List.length_append, bitsOf_length, encodeSymbol_length]
  all_goals exact Bool.noConfusion ha

theorem pxLiteral (g r b a : BitVec 8) : Statement (.pxLiteral g r b a) := by
  intro c _ ha; cases c
  case pixel =>
    change (encodeSymbol _ g.toNat ++ encodeSymbol _ r.toNat ++ encodeSymbol _ b.toNat ++ encodeSymbol _ a.toNat).length =
      symbolBits _ g.toNat + symbolBits _ r.toNat + symbolBits _ b.toNat + symbolBits _ a.toNat
    simp only [List.length_append, encodeSymbol_length]
  all_goals exact Bool.noConfusion ha

theorem pxBackref (g le d de : Nat) : Statement (.pxBackref g le d de) := by
  intro c _ ha; cases c
  case pixel =>
    change (encodeSymbol _ g ++ bitsOf (extraBits (g - 256)) le ++ encodeSymbol _ d ++ bitsOf (extraBits d) de).length =
      symbolBits _ g + extraBits (g - 256) + symbolBits _ d + extraBits d
    simp only [List.length_append, bitsOf_length, encodeSymbol_length]
  all_goals exact Bool.noConfusion ha

theorem pxCache (g : Nat) : Statement (.pxCache g) := by
  intro c _ ha; cases c <;> first | exact Bool.noConfusion ha | exact encodeSymbol_length _ _

theorem predM0 (l t tr tl : Word) : Statement (.predM0 l t tr tl) := by
  intro c _ ha; cases c <;> exact Bool.noConfusion ha

theorem predM1 (l t tr tl : Word) : Statement (.predM1 l t tr tl) := by
  intro c _ ha; cases c <;> exact Bool.noConfusion ha

theorem predM2 (l t tr tl : Word) : Statement (.predM2 l t tr tl) := by
  intro c _ ha; cases c <;> exact Bool.noConfusion ha

theorem predM3 (l t tr tl : Word) : Statement (.predM3 l t tr tl) := by
  intro c _ ha; cases c <;> exact Bool.noConfusion ha

theorem predM4 (l t tr tl : Word) : Statement (.predM4 l t tr tl) := by
  intro c _ ha; cases c <;> exact Bool.noConfusion ha

theorem predM5 (l t tr tl : Word) : Statement (.predM5 l t tr tl) := by
  intro c _ ha; cases c <;> exact Bool.noConfusion ha

theorem predM6 (l t tr tl : Word) : Statement (.predM6 l t tr tl) := by
  intro c _ ha; cases c <;> exact Bool.noConfusion ha

theorem predM7 (l t tr tl : Word) : Statement (.predM7 l t tr tl) := by
  intro c _ ha; cases c <;> exact Bool.noConfusion ha

theorem predM8 (l t tr tl : Word) : Statement (.predM8 l t tr tl) := by
  intro c _ ha; cases c <;> exact Bool.noConfusion ha

theorem predM9 (l t tr tl : Word) : Statement (.predM9 l t tr tl) := by
  intro c _ ha; cases c <;> exact Bool.noConfusion ha

theorem predM10 (l t tr tl : Word) : Statement (.predM10 l t tr tl) := by
  intro c _ ha; cases c <;> exact Bool.noConfusion ha

theorem predM11 (l t tr tl : Word) : Statement (.predM11 l t tr tl) := by
  intro c _ ha; cases c <;> exact Bool.noConfusion ha

theorem predM12 (l t tr tl : Word) : Statement (.predM12 l t tr tl) := by
  intro c _ ha; cases c <;> exact Bool.noConfusion ha

theorem predM13 (l t tr tl : Word) : Statement (.predM13 l t tr tl) := by
  intro c _ ha; cases c <;> exact Bool.noConfusion ha

theorem predM14 (l t tr tl : Word) : Statement (.predM14 l t tr tl) := by
  intro c _ ha; cases c <;> exact Bool.noConfusion ha

theorem predM15 (l t tr tl : Word) : Statement (.predM15 l t tr tl) := by
  intro c _ ha; cases c <;> exact Bool.noConfusion ha

theorem brRead (n : Nat) : Statement (.brRead n) := by
  intro c _ ha; cases c <;> exact Bool.noConfusion ha

theorem brPeek (n : Nat) : Statement (.brPeek n) := by
  intro c _ ha; cases c <;> exact Bool.noConfusion ha

theorem brFill : Statement (.brFill) := by
  intro c _ ha; cases c <;> exact Bool.noConfusion ha

theorem brEos : Statement (.brEos) := by
  intro c _ ha; cases c <;> exact Bool.noConfusion ha

theorem brAdvance (n : Nat) : Statement (.brAdvance n) := by
  intro c _ ha; cases c <;> exact Bool.noConfusion ha

theorem huffDecode (c : CodeSel) : Statement (.huffDecode c) := by
  intro c _ ha; cases c <;> exact Bool.noConfusion ha

theorem groupSelect (x y : Nat) : Statement (.groupSelect x y) := by
  intro c _ ha; cases c <;> exact Bool.noConfusion ha

theorem ccInsert (v : Word) : Statement (.ccInsert v) := by
  intro c _ ha; cases c <;> exact Bool.noConfusion ha

theorem ccLookup (key : Nat) : Statement (.ccLookup key) := by
  intro c _ ha; cases c <;> exact Bool.noConfusion ha

theorem invPred (bits : Nat) (data : List Word) : Statement (.invPred bits data) := by
  intro c _ ha; cases c <;> exact Bool.noConfusion ha

theorem invXcolor (bits : Nat) (data : List Word) : Statement (.invXcolor bits data) := by
  intro c _ ha; cases c <;> exact Bool.noConfusion ha

theorem invSubgreen : Statement (.invSubgreen) := by
  intro c _ ha; cases c <;> exact Bool.noConfusion ha

theorem paletteExpand (pal : List Word) (wb : Nat) : Statement (.paletteExpand pal wb) := by
  intro c _ ha; cases c <;> exact Bool.noConfusion ha

theorem invCindex (w wb : Nat) (pal : List Word) : Statement (.invCindex w wb pal) := by
  intro c _ ha; cases c <;> exact Bool.noConfusion ha

theorem hostStart : Statement (.hostStart) := by
  intro c _ ha; cases c <;> exact Bool.noConfusion ha

theorem sinkAlloc (w h : Nat) : Statement (.sinkAlloc w h) := by
  intro c _ ha; cases c <;> exact Bool.noConfusion ha

theorem sinkSet (x y : Nat) (p : Word) : Statement (.sinkSet x y p) := by
  intro c _ ha; cases c <;> exact Bool.noConfusion ha

end Laws.ElementLength

end Sys2Proof
end

