-- ==== Sys2Proof/Laws/Step.lean ====
section
/-! SUPPORT. Everything a step can do, one level at a time. -/

namespace Sys2Proof.Machine

/-! ## Whose move it is -/

/-- The host's next access comes first (log 1). -/
theorem step_host {s : State} {a : HostAct} {rest : List HostAct} (h : s.host = a :: rest) :
    step s = hostMove a { s with host := rest } := by simp [step, move, h]

/-- Without one the core moves. -/
theorem step_core {s : State} (h : s.host = []) : step s = coreMove s := by simp [step, move, h]

theorem coreMove_next {s t : State} :
    coreMove s = .next t ↔
      (∃ i rest, s.ops = i :: rest ∧ exec i { s with ops := rest } = .next t) ∨
        (s.ops = [] ∧ s.phase.running = true ∧ sequence s = .next t) ∨
        (s.ops = [] ∧ s.phase.running = false ∧ t = s) := by
  unfold coreMove
  split
  · rename_i i rest h; simp [h]
  · rename_i h; split_ifs with hr <;> simp [h, hr]; exact eq_comm

/-- What the host's access does (R21 to R27, R75, R370). -/
theorem hostMove_next {a : HostAct} {s t : State} :
    hostMove a s = .next t ↔
      (a = .pass ∧ coreMove s = .next t) ∨
        (∃ v, a = .write .ctrl v ∧
          (if v.getLsbD 0 then execHostStart s else (.next s : Out)) = .next t) ∨
        (∃ r v, r ≠ .ctrl ∧ a = .write r v ∧ t = writeReg r v s) ∨
        (∃ x b, a = .writeIn x b ∧ t = writeIn x b s) ∨ (a = .reset ∧ t = hardReset s) := by
  have e : ∀ u : State, ((.next u : Out) = .next t) ↔ t = u := fun u => by simp [eq_comm]
  cases a with
  | pass => simp [hostMove]
  | write r v =>
    cases r
    case ctrl =>
      have hd : hostMove (.write .ctrl v) s = if v.getLsbD 0 then execHostStart s else .next s := by
        simp only [hostMove, decodeCtrl]; cases v.getLsbD 0 <;> rfl
      rw [hd]; simp
    all_goals simp [hostMove, e]
  | writeIn x b => simp [hostMove, e]
  | reset => simp [hostMove, e]

/-! ## The sequencer -/

theorem runElement_next {s t : State} :
    runElement s = .next t ↔ ∃ c i, fetchCtx s = some c ∧ decode c (window s) = .ok i ∧ exec i s = .next t := by
  unfold runElement
  cases hc : fetchCtx s with
  | none => simp
  | some c => cases hd : decode c (window s) <;> simp [hd]

theorem endSubImage_next {n : Nested} {s t : State} :
    endSubImage n s = .next t ↔
      (∃ bits, n.use = .predictor bits ∧
        t = endTransform { kind := .predictor, xsize := s.xsize, bits := bits, data := n.img.pix } s) ∨
      (∃ bits, n.use = .crossColour bits ∧
        t = endTransform { kind := .crossColour, xsize := s.xsize, bits := bits, data := n.img.pix } s) ∨
      (∃ wb, n.use = .palette wb ∧ t = { s with stage := .palette, ops := s.ops ++ [.paletteExpand n.img.pix wb] }) ∨
      (∃ mb m, n.use = .groupMap mb ∧ s.img0 = some m ∧
        t = beginCodes { m with
          mt := metaMap m mb n.img.pix, ngroups := groupCount (metaMap m mb n.img.pix).idx } s) := by
  unfold endSubImage
  cases n.use with
  | groupMap mb => cases s.img0 <;> simp [eq_comm]
  | _ => simp [eq_comm]

theorem endPalette_next {s t : State} :
    endPalette s = .next t ↔ ∃ wb m, s.nested = some { use := .palette wb, img := m } ∧
      t = { endTransform { kind := .colourIndexing, xsize := s.xsize, bits := wb, data := s.res.palette } s with
        xsize := subSize s.xsize wb } := by
  unfold endPalette
  split
  · rename_i wb m h; simp [h, eq_comm]
  · rename_i h
    simp only [reduceCtorEq, false_iff]
    rintro ⟨wb, m, hn, _⟩
    exact h wb m hn

theorem endLevel0_next {s t : State} :
    endLevel0 s = .next t ↔
      (isEos s = true ∧ t = abortState .unexpectedEndOfStream s) ∨
        (isEos s = false ∧ t = { s with phase := .finish, stage := .finish }) := by
  unfold endLevel0; split_ifs with h <;> simp [h, abort_next]; exact eq_comm

theorem pixelMove_next {s t : State} :
    pixelMove s = .next t ↔ ∃ m, curImg s = some m ∧
      (if m.level0 && s.rowsEmitted + rowBatch ≤ s.rowsDone then
          t = beginBatch s.rowsEmitted (s.rowsEmitted + rowBatch) m s
        else if m.pos < m.size then runElement s = .next t
        else (∃ n, s.nested = some n ∧ endSubImage n s = .next t) ∨ (s.nested = none ∧ endLevel0 s = .next t)) := by
  unfold pixelMove
  cases hm : curImg s with
  | none => simp
  | some m =>
    simp only [Option.some.injEq, exists_eq_left']
    split_ifs
    · simp [eq_comm]
    · rfl
    · cases s.nested <;> simp

theorem finishMove_next {s t : State} :
    finishMove s = .next t ↔
      (s.rowsEmitted < s.hdr.h ∧ ∃ m, s.img0 = some m ∧ t = beginBatch s.rowsEmitted s.hdr.h m s) ∨
        (s.hdr.h ≤ s.rowsEmitted ∧ t = finishJob s) := by
  unfold finishMove
  split_ifs with h
  · cases s.img0 <;> simp [h, Nat.not_le.mpr h, eq_comm]
  · simp [h, Nat.not_lt.mp h, eq_comm]

/-- The sequencer's move: a batch in emission first, then by grammar position. -/
theorem sequence_next {s t : State} :
    sequence s = .next t ↔
      (∃ y0 y1, s.emit = .inverting y0 y1 ∧
        t = { s with ops := s.ops ++ rowSets s.hdr.w y0 y1 s.work.pix, emit := .sinking y1 }) ∨
      (∃ y1, s.emit = .sinking y1 ∧ t = { s with rowsEmitted := y1, emit := .off }) ∨
      (s.emit = .off ∧ s.stage = .pixel ∧ pixelMove s = .next t) ∨
      (s.emit = .off ∧ s.stage = .palette ∧ endPalette s = .next t) ∨
      (s.emit = .off ∧ s.stage = .finish ∧ finishMove s = .next t) ∨
      (s.emit = .off ∧ s.stage ≠ .pixel ∧ s.stage ≠ .palette ∧ s.stage ≠ .finish ∧ runElement s = .next t) := by
  unfold Machine.sequence
  cases s.emit with
  | inverting y0 y1 => simp [eq_comm]
  | sinking y1 => simp [eq_comm]
  | off => cases s.stage <;> simp

/-! ## Decoded instructions -/

/-- The decoder gives stream elements only, each of its context (R82). -/
theorem decode_admitted_kind {c : Ctx} {rd : Window} {i : Instr} (h : decode c rd = .ok i) :
    isElement i = true ∧ (isHeader i = true ↔ c = .header) := by
  cases c with
  | header => simp only [decode, Except.ok.injEq] at h; subst h; exact ⟨rfl, by simp [isHeader]⟩
  | xform =>
    simp only [decode, decodeXform, Except.ok.injEq] at h
    split_ifs at h <;> (try split at h) <;> subst h <;> exact ⟨rfl, by simp [isHeader]⟩
  | ccache => simp only [decode, Except.ok.injEq] at h; split_ifs at h <;> subst h <;> exact ⟨rfl, by simp [isHeader]⟩
  | metaBit => simp only [decode, Except.ok.injEq] at h; split_ifs at h <;> subst h <;> exact ⟨rfl, by simp [isHeader]⟩
  | hcode =>
    simp only [decode, decodeHcode, Except.ok.injEq] at h
    split_ifs at h <;> (try split at h) <;> subst h <;> exact ⟨rfl, by simp [isHeader]⟩
  | maxsym =>
    simp only [decode, decodeMaxsym, Except.ok.injEq] at h
    split_ifs at h <;> subst h <;> exact ⟨rfl, by simp [isHeader]⟩
  | token cl =>
    simp only [decode, decodeToken] at h
    split at h
    · cases h
    · split_ifs at h <;> cases h <;> exact ⟨rfl, by simp [isHeader]⟩
  | pixel g r b a d =>
    simp only [decode, decodePixel, decodeLiteral, decodeBackref] at h
    repeat' split at h
    all_goals first
      | (cases h; exact ⟨rfl, by simp [isHeader]⟩)
      | cases h

end Sys2Proof.Machine
end

