-- ==== Sys2Proof/Tests/Slice0.lean ====
section
/-! SUPPORT. The model's own tests: ill-formed terms, decoded words, one-step tests, and for every statement of
Certificates/Slice0/Obligations.lean with hypotheses a concrete state and operands that meet them. Expected results are
those of spec/95_test_vectors.md (a vector `V…`, a program `P…`, `E…`) or of the rule named. -/

namespace Sys2Proof.Machine

-- one theorem at a time: each thread reserves a large stack
set_option Elab.async false

/-! ## Ill-formed terms (`Instr.wf` refuses each) -/

theorem test_wf_hcodeNormal : (Instr.hcodeNormal 0 [0, 0, 0]).wf = false := by decide
theorem test_wf_hcodeNormal_ok : (Instr.hcodeNormal 0 [0, 1, 0, 1]).wf = true := by decide
theorem test_wf_maxsymOn : (Instr.maxsymOn 0 4).wf = false ∧ (Instr.maxsymOn 0 3).wf = true := by decide
theorem test_wf_backref_symbol : (Instr.pxBackref 255 0 0 0).wf = false ∧ (Instr.pxBackref 280 0 0 0).wf = false := by
  decide
theorem test_wf_backref_length : (Instr.pxBackref 260 2 0 0).wf = false ∧ (Instr.pxBackref 260 1 0 0).wf = true := by
  decide
theorem test_wf_backref_dist : (Instr.pxBackref 256 0 40 0).wf = false ∧ (Instr.pxBackref 256 0 39 0).wf = true := by
  decide
theorem test_wf_backref_extra : (Instr.pxBackref 256 0 8 8).wf = false ∧ (Instr.pxBackref 256 0 8 7).wf = true := by
  decide
theorem test_wf_cache_low : (Instr.pxCache 279).wf = false ∧ (Instr.pxCache 280).wf = true := by decide
theorem test_wf_cache_high : (Instr.pxCache 2328).wf = false ∧ (Instr.pxCache 2327).wf = true := by decide
theorem test_wf_brRead : (Instr.brRead 25).wf = false ∧ (Instr.brRead 24).wf = true := by decide
theorem test_wf_brPeek : (Instr.brPeek 25).wf = false ∧ (Instr.brPeek 24).wf = true := by decide
theorem test_wf_brAdvance : (Instr.brAdvance 16).wf = false ∧ (Instr.brAdvance 15).wf = true := by decide
theorem test_wf_huffDecode_group : (Instr.huffDecode (.channel 65536 0)).wf = false := by decide
theorem test_wf_huffDecode_code : (Instr.huffDecode (.channel 0 5)).wf = false := by decide
theorem test_wf_groupSelect : (Instr.groupSelect 16384 0).wf = false ∧ (Instr.groupSelect 0 16384).wf = false := by decide
theorem test_wf_ccLookup : (Instr.ccLookup 2048).wf = false ∧ (Instr.ccLookup 2047).wf = true := by decide
theorem test_wf_invPred_bits : (Instr.invPred 1 [0]).wf = false ∧ (Instr.invPred 10 [0]).wf = false := by decide
theorem test_wf_invPred_data : (Instr.invPred 2 []).wf = false ∧ (Instr.invPred 2 [0]).wf = true := by decide
theorem test_wf_invXcolor_bits : (Instr.invXcolor 1 [0]).wf = false ∧ (Instr.invXcolor 10 [0]).wf = false := by decide
theorem test_wf_invXcolor_data : (Instr.invXcolor 9 []).wf = false ∧ (Instr.invXcolor 9 [0]).wf = true := by decide
theorem test_wf_palette_bits : (Instr.paletteExpand [0] 4).wf = false := by decide
theorem test_wf_palette_size : (Instr.paletteExpand [] 3).wf = false ∧ (Instr.paletteExpand [0, 0, 0] 3).wf = false := by
  decide
theorem test_wf_invCindex_width : (Instr.invCindex 0 3 [0, 0]).wf = false ∧ (Instr.invCindex 16385 3 [0, 0]).wf = false := by
  decide
theorem test_wf_invCindex_bits : (Instr.invCindex 1 4 [0, 0]).wf = false := by decide
theorem test_wf_invCindex_table : (Instr.invCindex 1 3 [0]).wf = false ∧ (Instr.invCindex 1 3 [0, 0]).wf = true := by decide
theorem test_wf_sinkAlloc_width : (Instr.sinkAlloc 0 1).wf = false ∧ (Instr.sinkAlloc 16385 1).wf = false := by decide
theorem test_wf_sinkAlloc_height : (Instr.sinkAlloc 1 0).wf = false ∧ (Instr.sinkAlloc 1 16385).wf = false := by decide
theorem test_wf_sinkSet : (Instr.sinkSet 16384 0 0).wf = false ∧ (Instr.sinkSet 0 16384 0).wf = false := by decide

/-! ## Decoding

The words are the encoding strings of spec/30_encoding.md R83 to R89, their bits in stream order. -/

/-- The window over bits written 0 and 1 in stream order. -/
def bits (l : List Nat) : Window := windowOfBits (l.map (· == 1))

/-- Tokens 0, 16, 17, 18 at two bits each: `00`, `01`, `10`, `11` (R197). -/
def fourTokens : Code := 2 :: List.replicate 15 0 ++ [2, 2, 2]

/-- A code over an alphabet of `A` symbols with one symbol. -/
def oneSymbol (A x : Nat) : Code := (List.replicate A 0).set x 1

/-- A code over an alphabet of `A` symbols: `x` is `0`, `y` is `1` (`x < y`). -/
def twoSymbols (A x y : Nat) : Code := (oneSymbol A x).set y 1

/-- Green `20`, `260`, `280`, `281` at two bits each, `00` to `11`. -/
def greenCode : Code := [20, 260, 280, 281].foldl (fun L x => L.set x 2) (List.replicate 282 0)

/-- Pixels: red 10 and 200, blue 30 alone, alpha 255 alone, distance symbols 0 and 8. -/
def pixelCtx : Ctx :=
  .pixel greenCode (twoSymbols 256 10 200) (oneSymbol 256 30) (oneSymbol 256 255) (twoSymbols 40 0 8)

theorem test_decode_hdr : decode .header (bits
    [1,1,1,1,0,1,0,0, 1,1,0,0,0,0,0,0,0,0,0,0,0,0, 1,1,0,0,0,0,0,0,0,0,0,0,0,0, 1, 0,0,0]) = .ok (.hdr 0x2F 3 3 1 0) := by
  decide +kernel
theorem test_decode_xformEnd : decode .xform (bits [0]) = .ok .xformEnd := by decide +kernel
theorem test_decode_xformPred : decode .xform (bits [1, 0,0, 0,1,0]) = .ok (.xformPred 2) := by decide +kernel
theorem test_decode_xformXcolor : decode .xform (bits [1, 1,0, 1,0,0]) = .ok (.xformXcolor 1) := by decide +kernel
theorem test_decode_xformSubgreen : decode .xform (bits [1, 0,1]) = .ok .xformSubgreen := by decide +kernel
theorem test_decode_xformCindex : decode .xform (bits [1, 1,1, 0,1,0,0,0,0,0,0]) = .ok (.xformCindex 2) := by
  decide +kernel
theorem test_decode_ccacheOff : decode .ccache (bits [0]) = .ok .ccacheOff := by decide +kernel
theorem test_decode_ccacheOn : decode .ccache (bits [1, 0,0,1,0]) = .ok (.ccacheOn 4) := by decide +kernel
theorem test_decode_metaOff : decode .metaBit (bits [0]) = .ok .metaOff := by decide +kernel
theorem test_decode_metaOn : decode .metaBit (bits [1, 1,0,0]) = .ok (.metaOn 1) := by decide +kernel
theorem test_decode_hcodeS1b1 : decode .hcode (bits [1, 0, 0, 1]) = .ok (.hcodeS1b1 1) := by decide +kernel
theorem test_decode_hcodeS1b8 : decode .hcode (bits [1, 0, 1, 0,0,1,0,1,0,0,0]) = .ok (.hcodeS1b8 20) := by decide +kernel
theorem test_decode_hcodeS2b1 : decode .hcode (bits [1, 1, 0, 1, 0,0,0,0,0,0,0,1]) = .ok (.hcodeS2b1 1 128) := by
  decide +kernel
theorem test_decode_hcodeS2b8 :
    decode .hcode (bits [1, 1, 1, 1,1,1,1,1,1,1,1, 0,0,0,0,0,0,0,1]) = .ok (.hcodeS2b8 255 128) := by decide +kernel
theorem test_decode_hcodeNormal :
    decode .hcode (bits [0, 0,0,0,0, 0,0,0, 1,0,0, 0,0,0, 1,0,0]) = .ok (.hcodeNormal 0 [0, 1, 0, 1]) := by decide +kernel
theorem test_decode_maxsymOff : decode .maxsym (bits [0]) = .ok .maxsymOff := by decide +kernel
theorem test_decode_maxsymOn : decode .maxsym (bits [1, 0,0,0, 1,1]) = .ok (.maxsymOn 0 3) := by decide +kernel
theorem test_decode_clLit : decode (.token fourTokens) (bits [0,0]) = .ok (.clLit 0) := by decide +kernel
theorem test_decode_clRep16 : decode (.token fourTokens) (bits [0,1, 1,0]) = .ok (.clRep16 1) := by decide +kernel
theorem test_decode_clZero17 : decode (.token fourTokens) (bits [1,0, 0,0,1]) = .ok (.clZero17 4) := by decide +kernel
theorem test_decode_clZero18 : decode (.token fourTokens) (bits [1,1, 0,1,0,1,0,1,1]) = .ok (.clZero18 106) := by
  decide +kernel
theorem test_decode_pxLiteral : decode pixelCtx (bits [0,0, 1]) = .ok (.pxLiteral 20 200 30 255) := by decide +kernel
theorem test_decode_pxBackref : decode pixelCtx (bits [0,1, 0, 1, 1,1,1]) = .ok (.pxBackref 260 0 8 7) := by
  decide +kernel
theorem test_decode_pxCache : decode pixelCtx (bits [1,1]) = .ok (.pxCache 281) := by decide +kernel
theorem test_decode_hostStart : decodeCtrl 0xFFFFFFFF = .ok .hostStart ∧ decodeCtrl 0xFFFFFFFE = .error .notStart := by
  decide +kernel

/-- The mode is bits 11:8, the other bits ignored (R268); each of the sixteen selects its instruction. -/
theorem test_decode_predModes :
    ((List.range 16).map fun m => decodePred (BitVec.ofNat 32 (0xABCDE0FF + 256 * m)) 1 2 3 4) =
      [.predM0 1 2 3 4, .predM1 1 2 3 4, .predM2 1 2 3 4, .predM3 1 2 3 4, .predM4 1 2 3 4, .predM5 1 2 3 4,
       .predM6 1 2 3 4, .predM7 1 2 3 4, .predM8 1 2 3 4, .predM9 1 2 3 4, .predM10 1 2 3 4, .predM11 1 2 3 4,
       .predM12 1 2 3 4, .predM13 1 2 3 4, .predM14 1 2 3 4, .predM15 1 2 3 4] := by decide +kernel

/-- V4.1, V4.4: the codewords of a code, most significant bit first. -/
theorem test_encode_symbols :
    [0, 1, 2, 3].map (encodeSymbol [2, 1, 3, 3]) =
      [[true, false], [false], [true, true, false], [true, true, true]] ∧
    [0, 4, 5, 7].map (encodeSymbol [3, 3, 3, 3, 3, 2, 4, 4]) =
      [[false, true, false], [true, true, false], [false, false], [true, true, true, true]] := by decide +kernel

/-- Program P3's copy: length symbol 260 `111`, one extra bit 0, the distance's only symbol 8 (no bits), `111`. -/
theorem test_encode_backref :
    encode (.pixel ((([2, 5, 8].foldl (fun L x => L.set x 2) (List.replicate 280 0)).set 11 3).set 260 3) [] [] []
      (oneSymbol 40 8)) (.pxBackref 260 0 8 7) = [true, true, true, false, true, true, true] := by decide +kernel

/-! ## Table words -/

theorem test_tableWord_subgreen : decodeTableWord 8 0b101 = some .xformSubgreen := by decide +kernel
theorem test_tableWord_hdr : decodeTableWord 40 0x100000002F = some (.hdr 0x2F 0 0 1 0) := by decide +kernel
theorem test_tableWord_pred : decodeTableWord 16 0x0B00 = some (.predM11 0 0 0 0) := by decide +kernel
theorem test_tableWord_token : decodeTableWord 8 17 = some (.clZero17 0) := by decide +kernel

/-! ## One step of each instruction -/

/-- A next state with the property. -/
def onNext (o : Out) (p : State → Bool) : Bool :=
  match o with
  | .next t => p t
  | .fault _ => false
  | .refused _ => false

/-- The job failed with STATUS `st` and the cursor at `p`. -/
def failedAt (o : Out) (st : Word) (p : Nat) : Bool :=
  onNext o fun t => t.status == st && t.pos == p && t.phase == .error

/-- A running job at a grammar position, for a 6×6 image, with `IN` given and `LEN` 100. -/
def job (ph : Phase) (st : Stage) (bytes : List Byte) : State :=
  { State.reset with
    status := statusBusy, phase := ph, stage := st, inMem := Memory.writeBytes [] 0 bytes, inLen := 100
    hdr := { w := 6, h := 6, alpha := 1, ver := 0 }, xsize := 6, info := 0x10014005 }

/-- The same with the level-0 image `m`. -/
def job0 (ph : Phase) (st : Stage) (m : Img) : State :=
  { job ph st [] with
    img0 := some m, xsize := m.xs, hdr := { w := m.xs, h := m.ys, alpha := 1, ver := 0 }
    info := infoWord { w := m.xs, h := m.ys, alpha := 1, ver := 0 }
    sink := { size := some (m.xs, m.ys, 4), sets := [], whole := false, calls := 1 } }

/-- The same with a nested image and no level 0. -/
def jobN (st : Stage) (u : SubUse) (m : Img) : State :=
  { job .xform st [] with nested := some { use := u, img := m } }

/-- The code just read. -/
def lastCode (t : State) : Option Code := (curImg t).bind (·.codes.getLast?)

/-- V2.2, V2.3. -/
theorem test_hdr_info :
    (onNext (exec (.hdr 0x2F 3 3 1 0) (job .header .header [])) fun t =>
      t.info == 0x1000C003 && t.hdr == ⟨4, 4, 1, 0⟩ && t.xsize == 4 && t.pos == 40 && t.phase == .xform) = true ∧
    (onNext (exec (.hdr 0x2F 0x3FFF 0x3FFF 1 0) (job .header .header [])) fun t => t.info == 0x1FFFFFFF) = true := by
  decide +kernel
/-- V2.4, V2.5. -/
theorem test_hdr_fails :
    failedAt (exec (.hdr 0x2E 0 0 1 0) (job .header .header [])) 0x14 8 = true ∧
    failedAt (exec (.hdr 0x2F 0 0 1 1) (job .header .header [])) 0x14 40 = true := by decide +kernel
theorem test_xformEnd : (onNext (exec .xformEnd (job .xform .xform [])) fun t =>
    t.phase == .ccache && t.stage == .ccache && t.img0 == some (freshImg 6 6 true) && t.pos == 1) = true := by
  decide +kernel
/-- V2.10. -/
theorem test_xformPred : (onNext (exec (.xformPred 0) (job .xform .xform [])) fun t =>
    t.nested == some ⟨.predictor 2, freshImg 2 2 false⟩ && t.seen == 1 && t.pos == 6) = true := by decide +kernel
/-- R160: 6 columns in tiles of 512 are one tile. -/
theorem test_xformXcolor : (onNext (exec (.xformXcolor 7) (job .xform .xform [])) fun t =>
    t.nested == some ⟨.crossColour 9, freshImg 1 1 false⟩ && t.seen == 2 && t.pos == 6) = true := by decide +kernel
/-- V2.7, V2.8. -/
theorem test_xformSubgreen :
    (onNext (exec .xformSubgreen { job .xform .xform [] with pos := 40 }) fun t =>
      t.xfs == [⟨.subtractGreen, 6, 0, []⟩] && t.seen == 4 && t.pos == 43) = true ∧
    failedAt (exec .xformSubgreen { job .xform .xform [] with pos := 43, seen := 4 }) 0x24 46 = true := by decide +kernel
/-- V2.11. -/
theorem test_xformCindex : (onNext (exec (.xformCindex 2) { job .xform .xform [] with xsize := 11 }) fun t =>
    t.nested == some ⟨.palette 2, freshImg 3 1 false⟩ && t.seen == 8 && t.pos == 11) = true := by decide +kernel
/-- The palette packing table of spec/95_test_vectors.md section 2.2. -/
theorem test_widthBits : [1, 2, 3, 4, 5, 16, 17, 256].map widthBits = [3, 3, 2, 2, 1, 1, 0, 0] ∧
    [3, 2, 1, 0].map (subSize 10) = [2, 3, 5, 10] := by decide
theorem test_ccacheOff : (onNext (exec .ccacheOff (job0 .ccache .ccache (freshImg 4 4 true))) fun t =>
    t.img0 == some (freshImg 4 4 true) && t.stage == .metaBit && t.phase == .metaCfg && t.pos == 1) = true := by
  decide +kernel
/-- V2.12, V2.13. -/
theorem test_ccacheOn :
    (onNext (exec (.ccacheOn 4) (jobN .ccache (.palette 0) (freshImg 4 1 false))) fun t =>
      t.stage == .hcode && (match curImg t with
        | some m => m.cc == ⟨4, List.replicate 16 0⟩ && nextAlphabet m == 296
        | none => false)) = true ∧
    failedAt (exec (.ccacheOn 12) (job0 .ccache .ccache (freshImg 4 4 true))) 0x34 5 = true := by decide +kernel
theorem test_metaOff : (onNext (exec .metaOff (job0 .metaCfg .metaBit (freshImg 8 1 true))) fun t =>
    t.phase == .codes && t.stage == .hcode && t.pos == 1) = true := by decide +kernel
/-- V2.14. -/
theorem test_metaOn : (onNext (exec (.metaOn 0) (job0 .metaCfg .metaBit (freshImg 8 1 true))) fun t =>
    t.nested == some ⟨.groupMap 2, freshImg 2 1 false⟩ && t.pos == 4) = true := by decide +kernel
/-- V2.15. -/
theorem test_groupIndex : groupIndex 0x00000100 = 1 ∧ groupIndex 0x00FFFF00 = 0xFFFF := by decide +kernel

/-- A level-0 image whose next code is of alphabet 40. -/
def distNext : Img :=
  { freshImg 2 1 true with
    codes := [oneSymbol 280 20, oneSymbol 256 10, oneSymbol 256 30, oneSymbol 256 255], ngroups := 2 }

/-- V3.1. -/
theorem test_hcodeS1b1 : (onNext (exec (.hcodeS1b1 1) (job0 .codes .hcode distNext)) fun t =>
    lastCode t == some (oneSymbol 40 1) && t.pos == 4) = true := by decide +kernel
/-- V3.2, V3.6. -/
theorem test_hcodeS1b8 :
    (onNext (exec (.hcodeS1b8 20) (job0 .codes .hcode (freshImg 2 1 true))) fun t =>
      lastCode t == some (oneSymbol 280 20) && t.pos == 11) = true ∧
    failedAt (exec (.hcodeS1b8 255) (job0 .codes .hcode distNext)) 0x44 11 = true := by decide +kernel
/-- V3.3. -/
theorem test_hcodeS2b1 : (onNext (exec (.hcodeS2b1 1 0) (job0 .codes .hcode distNext)) fun t =>
    lastCode t == some (twoSymbols 40 0 1) && t.pos == 12) = true := by decide +kernel
/-- V3.4, V3.5. -/
theorem test_hcodeS2b8 :
    (onNext (exec (.hcodeS2b8 255 128) (job0 .codes .hcode (freshImg 2 1 true))) fun t =>
      (lastCode t).map (fun L => [128, 255].map (encodeSymbol L)) == some [[false], [true]] && t.pos == 19) = true ∧
    (onNext (exec (.hcodeS2b8 0xAA 0xAA) (job0 .codes .hcode (freshImg 2 1 true))) fun t =>
      lastCode t == some (oneSymbol 280 0xAA)) = true := by decide +kernel
/-- V3.7. -/
theorem test_hcodeNormal : (onNext (exec (.hcodeNormal 0 [0, 1, 0, 1]) (job0 .codes .hcode distNext)) fun t =>
    t.stage == .maxsym [0, 1, 0, 0, 0, 0, 0, 0, 0, 0, 0, 0, 0, 0, 0, 0, 0, 0, 1] && t.pos == 17) = true := by decide +kernel
theorem test_maxsymOff : (onNext (exec .maxsymOff (job0 .codes (.maxsym fourTokens) distNext)) fun t =>
    t.stage == .token fourTokens [] 40 8) = true := by decide +kernel
/-- V3.8, V3.9. -/
theorem test_maxsymOn :
    (onNext (exec (.maxsymOn 0 3) (job0 .codes (.maxsym fourTokens) distNext)) fun t =>
      t.stage == .token fourTokens [] 5 8 && t.pos == 6) = true ∧
    failedAt (exec (.maxsymOn 7 0xFFFF) (job0 .codes (.maxsym fourTokens) (freshImg 2 1 true))) 0x44 20 = true := by
  decide +kernel
/-- V3.10, its second token: a 0 keeps `prev`. -/
theorem test_clLit : (onNext (exec (.clLit 0) (job0 .codes (.token fourTokens [5] 9 5) distNext)) fun t =>
    t.stage == .token fourTokens [5, 0] 8 5 && t.pos == 2) = true := by decide +kernel
/-- V3.10, its third token; V3.11. -/
theorem test_clRep16 :
    (onNext (exec (.clRep16 0) (job0 .codes (.token fourTokens [5, 0] 8 5) distNext)) fun t =>
      t.stage == .token fourTokens [5, 0, 5, 5, 5] 7 5 && t.pos == 4) = true ∧
    (onNext (exec (.clRep16 0) (job0 .codes (.token fourTokens [] 40 8) distNext)) fun t =>
      t.stage == .token fourTokens [8, 8, 8] 39 8) = true := by decide +kernel
/-- V3.12. -/
theorem test_clZero17 : (onNext (exec (.clZero17 7) (job0 .codes (.token fourTokens [] 40 8) distNext)) fun t =>
    t.stage == .token fourTokens (List.replicate 10 0) 39 8) = true := by decide +kernel
/-- V3.13, V3.14. -/
theorem test_clZero18 :
    (onNext (exec (.clZero18 127) (job0 .codes (.token fourTokens [] 280 8) (freshImg 2 1 true))) fun t =>
      t.stage == .token fourTokens (List.replicate 138 0) 279 8) = true ∧
    failedAt (exec (.clZero18 0) (job0 .codes (.token fourTokens (List.replicate 276 0) 278 8) (freshImg 2 1 true)))
      0x44 9 = true := by decide +kernel

/-- The codes of program P3. -/
def p3Codes : List Code :=
  [(([2, 5, 8].foldl (fun L x => L.set x 2) (List.replicate 280 0)).set 11 3).set 260 3,
   [1, 4, 7, 10].foldl (fun L x => L.set x 2) (List.replicate 256 0),
   [3, 6, 9, 12].foldl (fun L x => L.set x 2) (List.replicate 256 0),
   oneSymbol 256 255, oneSymbol 40 8]

/-- Program P3 before its copy: the four literals are written, the cursor is at bit 285. -/
def p3 : State :=
  { job0 .pixels .pixel { freshImg 9 1 true with
      codes := p3Codes, pix := [0xFF010203, 0xFF040506, 0xFF070809, 0xFF0A0B0C] } with
    inMem := Memory.writeBytes [] 0
      [0x2F, 0x08, 0x00, 0x00, 0x10, 0x20, 0x90, 0x20, 0x01, 0x41, 0x10, 0xFA, 0xFF, 0xB8, 0x11, 0x02, 0x0A, 0x44, 0x44,
       0xF4, 0x7F, 0xB0, 0x90, 0x04, 0x09, 0x82, 0x20, 0xF8, 0x7F, 0x6F, 0xFF, 0x8B, 0x00, 0xA8, 0xD5, 0xFE, 0x0E]
    inLen := 37, pos := 285, info := 0x10000008 }

/-- P3: a step reads the copy of bits 285 to 291 and writes pixels 4 to 8. -/
theorem test_step_p3_copy : (onNext (step p3) fun t => t.pos == 292 && t.rowsDone == 1 && t.status == 1 &&
    (match t.img0 with
      | some m => m.pix == [0xFF010203, 0xFF040506, 0xFF070809, 0xFF0A0B0C, 0xFF010203, 0xFF040506, 0xFF070809,
          0xFF0A0B0C, 0xFF010203]
      | none => false)) = true := by decide +kernel
/-- E14: without the last byte the copy's bits end past the input. -/
theorem test_pxBackref_eos : failedAt (step { p3 with inLen := 36 }) 0x64 292 = true := by decide +kernel
/-- V5.4: any copy at position 0; a copy one pixel too long. -/
theorem test_pxBackref_bounds :
    failedAt (exec (.pxBackref 256 0 8 7) (job0 .pixels .pixel { freshImg 9 1 true with codes := p3Codes })) 0x54 3 = true ∧
    failedAt (exec (.pxBackref 257 0 1 0)
      (job0 .pixels .pixel { freshImg 2 1 true with codes := p3Codes, pix := [0] })) 0x54 0 = true := by decide +kernel
/-- V5.3. -/
theorem test_pxLiteral : (onNext (exec (.pxLiteral 20 10 30 255)
    (job0 .pixels .pixel { freshImg 1 1 true with codes := p3Codes })) fun t =>
      (match t.img0 with | some m => m.pix == [0xFF0A141E] | none => false) && t.rowsDone == 1) = true := by decide +kernel
/-- P4: the reference to slot 15 writes pixel 3 again; V6.3: a slot nothing was inserted in holds 0. -/
theorem test_pxCache :
    (onNext (exec (.pxCache 295) (job0 .pixels .pixel { freshImg 11 1 true with
        codes := p3Codes, cc := ⟨4, (List.replicate 16 0).set 15 0xFF31B309⟩ })) fun t =>
      (match t.img0 with | some m => m.pix == [0xFF31B309] | none => false)) = true ∧
    (onNext (exec (.pxCache 280) (job0 .pixels .pixel { freshImg 11 1 true with
        codes := p3Codes, cc := ⟨1, [0, 0]⟩ })) fun t =>
      (match t.img0 with | some m => m.pix == [0] | none => false)) = true := by decide +kernel
/-- V5.1: the ends of the range of some symbols. -/
theorem test_prefixValue :
    [(0, 0), (3, 0), (4, 1), (10, 15), (23, 0), (23, 1023), (39, 0), (39, 262143)].map (fun p => prefixValue p.1 p.2) =
      [1, 4, 6, 48, 3073, 4096, 786433, 1048576] := by decide +kernel
/-- V5.2. -/
theorem test_planeToDist :
    [1, 9, 100].map (fun xs => [1, 2, 3, 4, 5, 24, 120, 121, 124, 1000].map (planeToDist xs)) =
      [[1, 1, 2, 1, 2, 4, 15, 1, 4, 880], [9, 1, 10, 8, 18, 4, 71, 1, 4, 880],
       [100, 1, 101, 99, 200, 4, 708, 1, 4, 880]] := by decide +kernel
/-- V6.1. -/
theorem test_hash :
    [0x00000001, 0xFF000000, 0xFF0A141E, 0xFF31B309, 0x12345678, 0xFFFFFFFF].map
      (fun v : Word => [1, 4, 8, 11].map (hash v)) =
      [[0, 1, 30, 241], [0, 4, 67, 536], [1, 8, 139, 1118], [1, 15, 242, 1938], [1, 8, 139, 1119],
       [1, 14, 225, 1806]] := by decide +kernel

/-- What an operation returned. -/
def returned (o : Out) : Option Result :=
  match o with
  | .next t => some t.res
  | .fault _ => none
  | .refused _ => none

/-- V7.1. -/
theorem test_predictors :
    ((List.range 16).map fun m => returned (exec
        (decodePred (BitVec.ofNat 32 (256 * m)) 0xFF102030 0x80406080 0x00FF0010 0xFF204000) State.reset)) =
      ([0xFF000000, 0xFF102030, 0x80406080, 0x00FF0010, 0xFF204000, 0x7F633850, 0xFF183018, 0xBF284058, 0xBF305040,
        0x409F3048, 0x9F5B3030, 0x80406080, 0x803040B0, 0x9F2C4084, 0xFF000000, 0xFF000000] : List Word).map
        fun w => some (.pixel w) := by decide +kernel
/-- V7.2. -/
theorem test_predictor_corners :
    [select 0xFF000000 0xFF000010 0xFF000008, select 0 1 0, select 1 0 0] = [0xFF000010, 1, 1] ∧
    [predict 12 0xFFF0F0F0 0xFFF0F0F0 0 0x00101010, predict 12 0x01010101 0 0 0xFFFFFFFF,
      predict 13 0x01010101 0 0 0xFFFFFFFF, predict 13 0xFF000000 0xFF000010 0 0xFF000008] =
      [0xFFFFFFFF, 0, 0, 0xFF000008] := by decide +kernel

/-- V1.1's input. -/
def v11 : State := { State.reset with inMem := Memory.writeBytes [] 0 [0xB5, 0x3C, 0x01], inLen := 3 }

theorem test_brRead : (onNext (exec (.brRead 7) { v11 with pos := 16 }) fun t => t.res == .value 1 && t.pos == 23) = true ∧
    (onNext (exec (.brRead 3) { v11 with pos := 1 }) fun t => t.res == .value 2 && t.pos == 4) = true := by decide +kernel
theorem test_brPeek : (onNext (exec (.brPeek 4) { v11 with pos := 4 }) fun t => t.res == .value 0xB && t.pos == 4) = true := by
  decide +kernel
theorem test_brFill : exec .brFill v11 = .next v11 := rfl
theorem test_brEos : returned (exec .brEos { v11 with pos := 24 }) = some (.value 0) ∧
    returned (exec .brEos { v11 with pos := 28 }) = some (.value 1) := by decide +kernel
theorem test_brAdvance : (onNext (exec (.brAdvance 15) v11) fun t => t.pos == 15 && t.res == .nothing) = true := by
  decide +kernel

/-- V4.1: the bits 1, 1, 0 decode to symbol 2 in 3 bits; V4.3: a one-symbol code takes none. -/
theorem test_huffDecode :
    (onNext (exec (.huffDecode (.channel 0 0)) { job0 .pixels .pixel { freshImg 9 1 true with
        codes := [[2, 1, 3, 3], [0, 0, 5]] } with inMem := [(0, 0b011)] }) fun t => t.res == .value 2 && t.pos == 3) = true ∧
    (onNext (exec (.huffDecode (.channel 0 1)) { job0 .pixels .pixel { freshImg 9 1 true with
        codes := [[2, 1, 3, 3], [0, 0, 5]] } with inMem := [(0, 0b011)] }) fun t => t.res == .value 2 && t.pos == 0) = true := by
  decide +kernel
/-- V4.5: the longest codewords. -/
theorem test_longest_codeword :
    decodeSymbol [1, 2, 3, 4, 5, 6, 7, 8, 9, 10, 11, 12, 13, 14, 15, 15] (fun k => k < 14) 0 = some (14, 15) ∧
    decodeSymbol [1, 2, 3, 4, 5, 6, 7, 8, 9, 10, 11, 12, 13, 14, 15, 15] (fun _ => true) 0 = some (15, 15) := by
  decide +kernel
/-- V4.2, V4.3, V4.6 to V4.9. -/
theorem test_validCode :
    [[1, 1], [0, 0, 5], [1, 1, 1], [2, 2, 2], [0, 0, 0, 0, 0], [1, 2, 2, 0]].map validCode =
      [true, true, false, false, false, true] := by decide +kernel
/-- P7: pixels 0 to 3 are group 0's, pixels 4 to 7 group 1's. -/
theorem test_groupSelect :
    [3, 4].map (fun x => returned (exec (.groupSelect x 0) (job0 .pixels .pixel { freshImg 8 1 true with
        mt := ⟨2, 2, [0, 1]⟩, ngroups := 2 }))) = [some (.value 0), some (.value 1)] := by decide +kernel
/-- V6.2: the second colour of one slot replaces the first. -/
theorem test_ccInsert : (onNext (exec (.ccInsert 0x12345678) (job0 .pixels .pixel { freshImg 8 1 true with
    cc := ⟨4, (List.replicate 16 0).set 8 0xFF0A141E⟩ })) fun t =>
      returned (exec (.ccLookup 8) t) == some (.pixel 0x12345678)) = true := by decide +kernel
theorem test_ccLookup : returned (exec (.ccLookup 15) (job0 .pixels .pixel { freshImg 8 1 true with
    cc := ⟨4, (List.replicate 16 0).set 15 0xFF31B309⟩ })) = some (.pixel 0xFF31B309) := by decide +kernel

/-- A state with an image in the transform pipeline. -/
def working (w h : Nat) (pix : List Word) : State := { State.reset with work := ⟨w, h, pix⟩ }

/-- The pipeline's image after an operation. -/
def workAfter (o : Out) : Option (Nat × List Word) :=
  match o with
  | .next t => some (t.work.w, t.work.pix)
  | .fault _ => none
  | .refused _ => none

/-- P5: the inverse predictor of its residuals. -/
theorem test_invPred : workAfter (exec (.invPred 2 [0, 0, 0, 0x700]) (working 6 6
    ((List.range 36).map fun i => BitVec.ofNat 32 (65536 * (16 * (i % 6)) + 256 * (16 * (i / 6)) + 8 * (i % 6 + i / 6))))) =
    some (6,
      [0xFF000000, 0xFF100008, 0xFF300018, 0xFF600030, 0xFFA00050, 0xFFF00078,
       0xFF001008, 0xFF101010, 0xFF201018, 0xFF301020, 0xFF401028, 0xFF501030] ++
      [0xFF003018, 0xFF102018, 0xFF202020, 0xFF302028, 0xFF402030, 0xFF502038,
       0xFF006030, 0xFF103020, 0xFF203028, 0xFF303030, 0xFF403038, 0xFF503040] ++
      [0xFF00A050, 0xFF104028, 0xFF204030, 0xFF304038, 0xFF787878, 0xFFB494A4,
       0xFF00F078, 0xFF105030, 0xFF205038, 0xFF305040, 0xFF94B4A4, 0xFFF4F4F4]) := by decide +kernel
/-- V8.2. -/
theorem test_invXcolor : workAfter (exec (.invXcolor 2 [0x0020F040])
    (working 2 2 [0xFF108020, 0xFF007F00, 0xFFFF0101, 0x805500AA])) =
    some (2, [0xFF108070, 0xFFFE7FBE, 0xFF010101, 0x805500FF]) := by decide +kernel
/-- V8.1. -/
theorem test_colorDelta :
    [(0x20, 0x80), (0xF0, 0x80), (0x40, 0x7F), (0x7F, 0x7F), (0x80, 0x80), (0xFF, 0x01), (0x03, 0x0B)].map
      (fun p : Byte × Byte => colorDelta p.1 p.2) = [-128, 64, 254, 504, 512, -1, 1] := by decide +kernel
/-- spec/95_test_vectors.md section 2.9. -/
theorem test_invSubgreen : workAfter (exec .invSubgreen (working 2 2 [0xFF6464CE, 0x80F00F10, 0, 0xFFFFFFFF])) =
    some (2, [0xFFC86432, 0x80FF0F1F, 0, 0xFFFEFFFE]) := by decide +kernel
/-- V10.1. -/
theorem test_paletteExpand : returned (exec (.paletteExpand [0xFF000000, 0x00010203, 0x00FFFFFF] 2) State.reset) =
    some (.pixels [0xFF000000, 0xFF010203, 0xFF000102, 0]) := by decide +kernel
/-- V10.3, for width 5; P6. -/
theorem test_invCindex :
    workAfter (exec (.invCindex 5 3 [0xFF0000AA, 0xFF0000BB]) (working 1 1 [0x0000A500])) =
      some (5, [0xFF0000BB, 0xFF0000AA, 0xFF0000BB, 0xFF0000AA, 0xFF0000AA]) ∧
    workAfter (exec (.invCindex 4 2 [0xFFFF0000, 0xFF00FF00, 0xFF0000FF, 0]) (working 1 2 [0xFF006400, 0xFF000A00])) =
      some (4, [0xFFFF0000, 0xFF00FF00, 0xFF0000FF, 0xFF00FF00, 0xFF0000FF, 0xFF0000FF, 0xFFFF0000, 0xFFFF0000]) := by
  decide +kernel

/-- V11.2: a write of CTRL starts a job; V11.3: not while BUSY. -/
theorem test_hostStart :
    (onNext (step { State.reset with inLen := 12, host := [.write .ctrl 1] }) fun t =>
      t.status == 1 && t.info == 0 && t.pos == 0 && t.phase == .header && t.host == []) = true ∧
    exec .hostStart p3 = .next p3 := ⟨by decide +kernel, rfl⟩
theorem test_sinkAlloc : (onNext (exec (.sinkAlloc 9 1) p3) fun t => t.sink == ⟨some (9, 1, 4), [], false, 2⟩) = true := by
  decide +kernel
/-- V11.7. -/
theorem test_sinkSet : (onNext (exec (.sinkSet 0 0 0xFF0A141E) p3) fun t =>
    t.sink.sets == [⟨0, 0, 10, 20, 30, 255⟩] && t.sink.calls == 2) = true := by decide +kernel

/-- spec/95_test_vectors.md section 2.12. -/
theorem test_failure_codes :
    [Failure.malformedHeader, .invalidTransform, .invalidColorCacheBits, .invalidHuffmanCode, .corruptBackreference,
      .unexpectedEndOfStream].map statusFailed = [0x14, 0x24, 0x34, 0x44, 0x54, 0x64] := by decide +kernel

/-- Placed in `IN`, a table word runs at the very next step (log 12). -/
theorem test_withFetchWord :
    (onNext (step (State.reset.withFetchWord 40 0x100000002F)) fun t => t.info == 0x10000000 && t.phase == .xform) = true ∧
    (onNext (step (State.reset.withFetchWord 8 0b101)) fun t => t.seen == 4 && t.pos == 3) = true ∧
    (onNext (step (State.reset.withFetchWord 16 0x0200)) fun t => t.res == .pixel 0) = true := by decide +kernel

/-! ## Hypotheses met

For each statement with hypotheses, a concrete state and operands that meet all of them together, each clause at a
boundary of its range. -/

/-- A window that begins with an element's bits. -/
theorem startsWith_bits (bs : List Bool) : startsWith (windowOfBits bs) 0 bs := fun k _ => by rw [Nat.zero_add]

/-- DecodeEncodeAgree: a token, a backward reference at the top of its operands' ranges. -/
theorem test_hyp_DecodeEncodeAgree :
    ((Instr.clZero18 127).wf = true ∧ (Ctx.token fourTokens).admits (.clZero18 127) = true ∧
      startsWith (windowOfBits (encode (.token fourTokens) (.clZero18 127))) 0 (encode (.token fourTokens) (.clZero18 127))) ∧
    ((Instr.pxBackref 260 1 8 7).wf = true ∧ pixelCtx.admits (.pxBackref 260 1 8 7) = true ∧
      startsWith (windowOfBits (encode pixelCtx (.pxBackref 260 1 8 7))) 0 (encode pixelCtx (.pxBackref 260 1 8 7))) :=
  ⟨⟨by decide, by decide +kernel, startsWith_bits _⟩, ⟨by decide, by decide +kernel, startsWith_bits _⟩⟩

/-- PrefixProperty, V4.1 and V4.5. -/
theorem test_hyp_PrefixProperty :
    (validCode [2, 1, 3, 3] = true ∧ 2 ≤ codeSymbols [2, 1, 3, 3] ∧ hasSymbol [2, 1, 3, 3] 3 = true ∧
      startsWith (windowOfBits (encodeSymbol [2, 1, 3, 3] 3)) 0 (encodeSymbol [2, 1, 3, 3] 3) ∧
      encodeSymbol [2, 1, 3, 3] 3 <+: encodeSymbol [2, 1, 3, 3] 3) ∧
    validCode [1, 2, 3, 4, 5, 6, 7, 8, 9, 10, 11, 12, 13, 14, 15, 15] = true :=
  ⟨⟨by decide +kernel, by decide +kernel, by decide +kernel, startsWith_bits _, List.prefix_rfl⟩, by decide +kernel⟩

theorem test_hyp_CanonicalCodewords :
    validCode [2, 1, 3, 3] = true ∧ 2 ≤ codeSymbols [2, 1, 3, 3] ∧ hasSymbol [2, 1, 3, 3] 1 = true ∧
      hasSymbol [2, 1, 3, 3] 3 = true ∧ [2, 1, 3, 3].getD 1 0 < [2, 1, 3, 3].getD 3 0 := by decide +kernel

/-- BuildCodeChecks: the cursor at the end of the input; one symbol of length 15; a full tree; lengths over 15, none,
over- and under-subscribed. -/
theorem test_hyp_BuildCodeChecks :
    ({ p3 with pos := 8 * 37 } : State).pos ≤ 8 * ({ p3 with pos := 8 * 37 } : State).inLen.toNat ∧
    (([0, 0, 15].filter (· ≠ 0)).length = 1 ∧ [0, 0, 15].getD 2 0 ≠ 0 ∧ ∀ l ∈ [0, 0, 15], l ≤ 15) ∧
    (2 ≤ ([1, 1].filter (· ≠ 0)).length ∧ (([1, 1].filter (· ≠ 0)).map fun l => 2 ^ (15 - l)).sum = 2 ^ 15 ∧
      ∀ l ∈ [1, 1], l ≤ 15) ∧
    (¬ ∀ l ∈ [0, 16], l ≤ 15) ∧ ([0].filter (· ≠ 0)).length = 0 ∧
    (([1, 1, 1].filter (· ≠ 0)).map fun l => 2 ^ (15 - l)).sum ≠ 2 ^ 15 ∧
    (([2, 2, 2].filter (· ≠ 0)).map fun l => 2 ^ (15 - l)).sum ≠ 2 ^ 15 := by decide +kernel

/-- ConsumesExactlyItsEncoding: program P3 at its copy. -/
theorem test_hyp_ConsumesExactlyItsEncoding : Inv p3 ∧
    ∃ c, fetchCtx p3 = some c ∧ decode c (window p3) = .ok (.pxBackref 260 0 8 7) ∧
      onNext (exec (.pxBackref 260 0 8 7) p3) (fun t => t.phase != .error) = true :=
  ⟨by decide +kernel, _, rfl, by decide +kernel, by decide +kernel⟩

/-- StreamBits: the last bit of the input and the first after it. -/
theorem test_hyp_StreamBits : v11.inFree = none ∧ streamBit v11 16 = true ∧ 23 < 8 * v11.inLen.toNat ∧
    ¬ 24 < 8 * v11.inLen.toNat := by decide +kernel

theorem test_hyp_BitReader : (0 ≤ 24 ∧ 24 ≤ 24) ∧ (0 ≤ 15 ∧ 15 ≤ 15) := by decide

/-- HostWritesInput: while no job runs and while BUSY, at the last address. -/
theorem test_hyp_HostWritesInput :
    (v11.inMem.wf = true ∧ isBusy v11 = false ∧
      ({ v11 with host := [.writeIn 0xFFFFFFFF 7] } : State).host = .writeIn 0xFFFFFFFF 7 :: []) ∧
    (p3.inMem.wf = true ∧ isBusy p3 = true ∧
      ({ p3 with host := [.writeIn 0 0] } : State).host = .writeIn 0 0 :: [] ∧ 0 < 8 * p3.inLen.toNat) := by
  decide +kernel

/-- HeaderElement: a header that ends with the input (LEN 5) or one byte past it (LEN 4); a 16384-wide image expected
and given, and another size given. -/
theorem test_hyp_HeaderElement : ∀ n : Word, (n = 5 ∨ n = 4) →
    let s : State := { job .header .header [] with inLen := n, expect := 0x80003FFF }
    s.stage = .header ∧ (0x2E : BitVec 8) ≠ 0x2F ∧ (1 : BitVec 3) ≠ 0 ∧
    (n = 4 → 8 * s.inLen.toNat < s.pos + 40) ∧ (n = 5 → s.pos + 40 ≤ 8 * s.inLen.toNat) ∧
    s.expect.getLsbD 31 = true ∧ (0x3FFF : BitVec 14).toNat = (s.expect.extractLsb' 0 14).toNat ∧
    (0 : BitVec 14).toNat = (s.expect.extractLsb' 14 14).toNat ∧
    (0x3FFE : BitVec 14).toNat ≠ (s.expect.extractLsb' 0 14).toNat := by
  rintro n (rfl | rfl) <;> decide +kernel

/-- FailuresComeFromTheirChecks: program E1. -/
theorem test_hyp_FailuresComeFromTheirChecks : (job .header .header []).phase ≠ .error ∧
    onNext (exec (.hdr 0x2E 0 0 1 0) (job .header .header [])) (fun t => t.phase == .error) = true := by decide +kernel

/-- TransformElements: buffers of exactly PIX_MAX pixels; the smallest and largest tile exponents and palettes. -/
theorem test_hyp_TransformElements : ∀ pm : Nat, pm = 36 ∨ pm = 4 ∨ pm = 256 →
    let s : State := { job .xform .xform [] with params := ⟨100, pm⟩ }
    s.stage = .xform ∧ (pm = 36 → s.xsize * s.hdr.h ≤ s.params.pixMax) ∧
    (pm = 4 → ((s.xsize + 2 ^ 2 - 1) / 2 ^ 2) * ((s.hdr.h + 2 ^ 2 - 1) / 2 ^ 2) ≤ s.params.pixMax) ∧
    ((s.xsize + 2 ^ 9 - 1) / 2 ^ 9) * ((s.hdr.h + 2 ^ 9 - 1) / 2 ^ 9) ≤ s.params.pixMax ∧
    (pm = 256 → (255 : BitVec 8).toNat + 1 ≤ s.params.pixMax) ∧
    s.seen.getLsbD 0 = false ∧ s.seen.getLsbD 1 = false ∧ s.seen.getLsbD 2 = false ∧ s.seen.getLsbD 3 = false := by
  rintro pm (rfl | rfl | rfl) <;> decide +kernel

/-- DuplicateTransformFails, each type. -/
theorem test_hyp_DuplicateTransformFails :
    let s : State := { job .xform .xform [] with seen := 15 }
    s.stage = .xform ∧ namedXform? (.xformPred 0) = some .predictor ∧ namedXform? (.xformXcolor 7) = some .crossColour ∧
    namedXform? .xformSubgreen = some .subtractGreen ∧ namedXform? (.xformCindex 255) = some .colourIndexing ∧
    s.seen.getLsbD 0 = true ∧ s.seen.getLsbD 1 = true ∧ s.seen.getLsbD 2 = true ∧ s.seen.getLsbD 3 = true := by
  decide +kernel

/-- A complete 3×1 nested image. -/
def complete : Img := { freshImg 3 1 false with codes := p3Codes, pix := [0xFFFF0000, 0x0001FF00, 0x000001FF] }

theorem test_hyp_SubImageBecomesRecord : ∀ u : SubUse, u = .predictor 2 ∨ u = .crossColour 9 ∨ u = .palette 2 →
    let s := jobN .pixel u complete
    s.host = [] ∧ s.ops = [] ∧ s.emit = .off ∧ s.phase.running = true ∧ s.stage = .pixel ∧
    s.nested = some ⟨u, complete⟩ ∧ complete.level0 = false ∧ complete.pix.length = complete.xs * complete.ys := by
  rintro u (rfl | rfl | rfl) <;> decide +kernel

/-- P6: the palette's record holds the expanded table, and the coded width is 1 (2 here, for width 6). -/
theorem test_step_palette :
    (onNext (Host.Core.run Sys2Proof.core 3 (jobN .pixel (.palette 2) complete)) fun t =>
      t.xfs == [⟨.colourIndexing, 6, 2, [0xFFFF0000, 0xFF00FF00, 0xFF0000FF, 0]⟩] && t.xsize == 2) = true := by
  decide +kernel

/-- CapacityRefusals: one byte over LEN_MAX, one pixel over PIX_MAX. -/
theorem test_hyp_CapacityRefusals :
    (isBusy { State.reset with params := ⟨5, 1⟩, inLen := 6 } = false ∧
      ({ State.reset with params := ⟨5, 1⟩, inLen := 6 } : State).params.lenMax < (6 : Word).toNat) ∧
    (∀ pm : Nat, pm = 35 ∨ pm = 3 ∨ pm = 255 →
      let s : State := { job .xform .xform [] with params := ⟨100, pm⟩ }
      s.stage = .xform ∧ (pm = 35 → s.params.pixMax < s.xsize * s.hdr.h) ∧
      (pm = 3 → s.params.pixMax < ((s.xsize + 2 ^ 2 - 1) / 2 ^ 2) * ((s.hdr.h + 2 ^ 2 - 1) / 2 ^ 2)) ∧
      (pm = 255 → s.params.pixMax < (255 : BitVec 8).toNat + 1) ∧
      s.seen.getLsbD 0 = false ∧ s.seen.getLsbD 1 = false ∧ s.seen.getLsbD 3 = false) ∧
    (let s : State := { job0 .metaCfg .metaBit (freshImg 8 1 true) with params := ⟨100, 1⟩ }
     s.stage = .metaBit ∧ s.img0 = some (freshImg 8 1 true) ∧ s.params.pixMax < ((8 + 2 ^ 2 - 1) / 2 ^ 2) * 1) := by
  refine ⟨by decide +kernel, ?_, by decide +kernel⟩
  rintro pm (rfl | rfl | rfl) <;> decide +kernel

/-- ColourCacheElements: level 0 and a nested image; 1, 11 and the illegal 0, 12, 15. -/
theorem test_hyp_ColourCacheElements :
    (let s := job0 .ccache .ccache (freshImg 4 4 true)
     s.stage = .ccache ∧ s.nested = none ∧ s.img0 = some (freshImg 4 4 true) ∧ (freshImg 4 4 true).level0 = true ∧
     (curImg s).isSome = true) ∧
    (let s := jobN .ccache (.palette 0) (freshImg 4 1 false)
     s.stage = .ccache ∧ s.nested = some ⟨.palette 0, freshImg 4 1 false⟩ ∧ (freshImg 4 1 false).level0 = false ∧
     (curImg s).isSome = true) ∧
    (∀ c ∈ ([1, 11] : List (BitVec 4)), 1 ≤ c.toNat ∧ c.toNat ≤ 11) ∧
    ∀ c ∈ ([0, 12, 15] : List (BitVec 4)), c.toNat = 0 ∨ 12 ≤ c.toNat := by decide +kernel

/-- MetaElements: a meta image of exactly PIX_MAX pixels. -/
theorem test_hyp_MetaElements :
    let s : State := { job0 .metaCfg .metaBit (freshImg 8 1 true) with params := ⟨100, 2⟩ }
    s.stage = .metaBit ∧ s.img0 = some (freshImg 8 1 true) ∧
    ((8 + 2 ^ 2 - 1) / 2 ^ 2) * ((1 + 2 ^ 2 - 1) / 2 ^ 2) ≤ s.params.pixMax := by decide +kernel

/-- Program P7 with its meta image complete, level 0 waiting. -/
def p7meta : State :=
  { job0 .metaCfg .pixel (freshImg 8 1 true) with
    nested := some ⟨.groupMap 2, { freshImg 2 1 false with codes := p3Codes, pix := [0, 0x100] }⟩ }

theorem test_hyp_MetaImageGivesGroups :
    p7meta.host = [] ∧ p7meta.ops = [] ∧ p7meta.emit = .off ∧ p7meta.phase.running = true ∧ p7meta.stage = .pixel ∧
    p7meta.nested = some ⟨.groupMap 2, { freshImg 2 1 false with codes := p3Codes, pix := [0, 0x100] }⟩ ∧
    ([0, 0x100] : List Word).length = 2 * 1 ∧ p7meta.img0 = some (freshImg 8 1 true) := by decide +kernel

/-- P7: two groups. -/
theorem test_step_meta : (onNext (step p7meta) fun t => t.phase == .codes && t.stage == .hcode && t.nested == none &&
    (match t.img0 with | some m => m.ngroups == 2 && m.mt == ⟨2, 2, [0, 1]⟩ | none => false)) = true := by decide +kernel

/-- SimpleCodesRead: the four forms; the input one bit short and just enough; a symbol of the alphabet (39 of 40) and
one outside it. -/
theorem test_hyp_SimpleCodesRead : ∀ n ∈ [4, 11, 12, 19],
    (let s : State := { job0 .codes .hcode distNext with inLen := 2, pos := 16 - n + 1 }
     s.stage = .hcode ∧ curImg s = some distNext ∧ 8 * s.inLen.toNat < s.pos + n) ∧
    (let s : State := { job0 .codes .hcode distNext with inLen := 3, pos := 24 - n }
     s.stage = .hcode ∧ curImg s = some distNext ∧ s.pos + n ≤ 8 * s.inLen.toNat) ∧
    nextAlphabet distNext = 40 ∧ (∀ x ∈ [(40 : BitVec 8).toNat], nextAlphabet distNext ≤ x) ∧
    (∃ x ∈ [(1 : BitVec 1).toNat], x < nextAlphabet distNext) ∧ (39 : BitVec 8).toNat < nextAlphabet distNext := by
  decide +kernel

/-- NormalCodeHeader: 4 and 19 lengths; a code of one token, a full one and an illegal one. -/
theorem test_hyp_NormalCodeHeader :
    (List.replicate 4 (0 : BitVec 3)).length = (0 : BitVec 4).toNat + 4 ∧
    (List.replicate 19 (7 : BitVec 3)).length = (15 : BitVec 4).toNat + 4 ∧
    (job0 .codes .hcode distNext).stage = .hcode ∧ (curImg (job0 .codes .hcode distNext)).isSome = true ∧
    validCode (clLengths [0, 1, 0, 1]) = true ∧ validCode (clLengths [0, 0, 0, 0]) = false ∧
    codeSymbols (clLengths [0, 7, 0, 0]) = 1 ∧ (clLengths [0, 7, 0, 0]).getD 18 0 ≠ 0 := by decide +kernel

/-- MaxsymElements: as many tokens as the alphabet has symbols, and one more. -/
theorem test_hyp_MaxsymElements :
    (job0 .codes (.maxsym fourTokens) distNext).stage = .maxsym fourTokens ∧
    curImg (job0 .codes (.maxsym fourTokens) distNext) = some distNext ∧
    (38 < 2 ^ (2 + 2 * (2 : BitVec 3).toNat) ∧ 2 + 38 ≤ nextAlphabet distNext) ∧
    (39 < 2 ^ (2 + 2 * (2 : BitVec 3).toNat) ∧ nextAlphabet distNext < 2 + 39) ∧
    65535 < 2 ^ (2 + 2 * (7 : BitVec 3).toNat) := by decide +kernel

/-- A token's place: 40 symbols, `n` lengths written, `left` tokens left. -/
def atLengths (n left : Nat) : State := job0 .codes (.token fourTokens (List.replicate n 0) left 8) distNext

/-- CodeLengthTokens: each token may fill the alphabet exactly, leave one length, or pass its end by one. -/
theorem test_hyp_CodeLengthTokens : ∀ p ∈ [(1, 39), (3, 37), (3, 37), (11, 29)],
    (atLengths p.2 2).stage = .token fourTokens (List.replicate p.2 0) 2 8 ∧ curImg (atLengths p.2 2) = some distNext ∧
    (List.replicate p.2 0).length < nextAlphabet distNext ∧
    (List.replicate p.2 0 ++ List.replicate p.1 0).length ≤ nextAlphabet distNext ∧
    (List.replicate (p.2 - 1) 0 ++ List.replicate p.1 0).length < nextAlphabet distNext ∧ 2 ≤ 2 ∧
    (p.1 ≠ 1 → nextAlphabet distNext < (List.replicate (p.2 + 1) 0 ++ List.replicate p.1 0).length ∧
      (List.replicate (p.2 + 1) 0).length < nextAlphabet distNext) := by decide +kernel

/-- CodeEnd: a literal that fills the alphabet, and one that is the last token of a code with 39 lengths of 0; the
cursor at the end of the input and past it; a code that is valid and one that is not. -/
theorem test_hyp_CodeEnd :
    ((atLengths 39 9).stage = .token fourTokens (List.replicate 39 0) 9 8 ∧ curImg (atLengths 39 9) = some distNext ∧
      (List.replicate 39 0).length < nextAlphabet distNext ∧
      (List.replicate 39 0 ++ [1]).length = nextAlphabet distNext ∧ validCode (List.replicate 39 0 ++ [1]) = true ∧
      validCode (List.replicate 39 0 ++ [0]) = false) ∧
    ((atLengths 0 1).stage = .token fourTokens [] 1 8 ∧ ([] ++ [1]).length ≤ nextAlphabet distNext ∧
      ([1] ++ List.replicate 39 0).length = nextAlphabet distNext ∧ validCode ([1] ++ List.replicate 39 0) = true ∧
      ∀ j, ([1] ++ List.replicate 39 0).getD j 0 = ([] ++ [1]).getD j 0) ∧
    (({ atLengths 39 9 with pos := 798 } : State).pos + 2 ≤ 8 * (atLengths 39 9).inLen.toNat ∧
      8 * (atLengths 39 9).inLen.toNat < ({ atLengths 39 9 with pos := 799 } : State).pos + 2 ∧
      symbolBits fourTokens 0 + 0 = 2) := by
  refine ⟨by decide +kernel, ⟨by decide +kernel, by decide +kernel, by decide +kernel, by decide +kernel, ?_⟩,
    by decide +kernel⟩
  intro j
  rcases j with _ | j
  · rfl
  · change (List.replicate 39 0).getD j 0 = 0
    rw [List.getD_eq_getElem?_getD, List.getElem?_replicate]
    split <;> rfl

/-- GroupsOfFiveCodes: the fourth and the fifth code of one group, at level 0 and nested. -/
theorem test_hyp_GroupsOfFiveCodes :
    ({ freshImg 9 1 true with codes := p3Codes.take 3 } : Img).codes.length + 1 < 5 * 1 ∧
    5 * 1 ≤ ({ freshImg 9 1 true with codes := p3Codes.take 4 } : Img).codes.length + 1 ∧
    (freshImg 9 1 true).level0 = true ∧ (freshImg 9 1 false).level0 = false := by decide +kernel

/-- HuffDecodeReads: the code-length code at MAXSYM and at a token, and a channel of the current image. -/
theorem test_hyp_HuffDecodeReads :
    validCode fourTokens = true ∧ (job0 .codes (.maxsym fourTokens) distNext).stage = .maxsym fourTokens ∧
    (atLengths 0 9).stage = .token fourTokens [] 9 8 ∧
    (validCode (oneSymbol 40 8) = true ∧ curImg p3 = p3.img0 ∧
      (p3.img0.bind fun m => m.codes[5 * 0 + 4]?) = some (oneSymbol 40 8)) := by decide +kernel

/-- SinglePixelElements: the last pixel of an image, by a literal and by a cache reference; the input just enough and
one bit short. -/
theorem test_hyp_SinglePixelElements :
    (let m : Img := { freshImg 2 1 true with codes := p3Codes, pix := [0], cc := ⟨11, List.replicate 2048 0⟩ }
     (job0 .pixels .pixel m).stage = .pixel ∧ curImg (job0 .pixels .pixel m) = some m ∧ m.pix.length < m.xs * m.ys ∧
     (pixelCodes m).isSome = true ∧ m.cc.arr[2327 - 280]? = some 0) ∧
    (let s : State := { p3 with pos := 8 * 37 - 6 }
     s.pos + 6 ≤ 8 * s.inLen.toNat ∧ 8 * s.inLen.toNat < s.pos + 7) := by decide +kernel

/-- BackwardCopy: P3's copy reaches back to pixel 0 and ends the image; one pixel more on either side fails. -/
theorem test_hyp_BackwardCopy :
    p3.stage = .pixel ∧ (∃ m, curImg p3 = some m ∧ m.pix.length < m.xs * m.ys ∧ (pixelCodes m).isSome = true ∧
      planeToDist m.xs (prefixValue 8 7) ≤ m.pix.length ∧
      prefixValue (260 - 256) 0 ≤ m.xs * m.ys - m.pix.length ∧
      m.pix.length < planeToDist m.xs 125 ∧ m.xs * m.ys - m.pix.length < prefixValue (260 - 256) 1) ∧
    p3.pos + 7 ≤ 8 * p3.inLen.toNat ∧ 8 * ({ p3 with inLen := 36 } : State).inLen.toNat < p3.pos + 7 :=
  ⟨by decide +kernel, ⟨_, rfl, by decide +kernel⟩, by decide +kernel⟩

/-- ColourCacheSlots: one bit and eleven, the last slot. -/
theorem test_hyp_ColourCacheSlots : ∀ c ∈ [1, 11],
    let m : Img := { freshImg 8 1 true with cc := freshCache c }
    curImg (job0 .pixels .pixel m) = some m ∧ 1 ≤ m.cc.bits ∧ m.cc.bits ≤ 11 ∧ m.cc.arr.length = 2 ^ m.cc.bits ∧
    2 ^ c - 1 < 2 ^ m.cc.bits ∧ onNext (exec (.ccInsert 0xFFFFFFFF) (job0 .pixels .pixel m)) (fun _ => true) = true := by
  decide +kernel

/-- GroupSelection: one group; two groups by a meta image, at the last pixel. -/
theorem test_hyp_GroupSelection :
    (∃ m, curImg p3 = some m ∧ 1 ≤ m.ngroups ∧ mapOk m = true ∧ 4 < m.xs ∧ 0 < m.ys ∧ m.mt.bits = 0 ∧ 4 = m.pix.length % m.xs ∧
      0 = m.pix.length / m.xs ∧ m.codes.length = 5 * m.ngroups) ∧
    (let m : Img := { freshImg 8 1 true with
       mt := ⟨2, 2, [0, 1]⟩, ngroups := 2, codes := p3Codes ++ p3Codes, pix := List.replicate 7 0 }
     curImg (job0 .pixels .pixel m) = some m ∧ 1 ≤ m.ngroups ∧ mapOk m = true ∧ 7 < m.xs ∧ 0 < m.ys ∧ m.mt.bits ≠ 0 ∧
     7 = m.pix.length % m.xs ∧ 0 = m.pix.length / m.xs ∧ m.codes.length = 5 * m.ngroups) :=
  ⟨⟨_, rfl, by decide +kernel⟩, by decide +kernel⟩

/-- PrefixValuesCover, V5.1's last row. -/
theorem test_hyp_PrefixValuesCover : (1 ≤ 1048576 ∧ 1048576 ≤ 1048576) ∧
    (39 < 40 ∧ 262143 < 2 ^ extraBits 39 ∧ prefixValue 39 262143 = 1048576) ∧
    (0 < 40 ∧ 0 < 2 ^ extraBits 0 ∧ prefixValue 0 0 = 1) := by decide +kernel

/-- DistanceMapping: the first and last entry, the first plane code above, the largest. -/
theorem test_hyp_DistanceMapping : 120 < 121 ∧ (1 ≤ 1 ∧ 1 ≤ 120) ∧ (1 ≤ 120 ∧ 120 ≤ 120) ∧
    (1 ≤ 1048576 ∧ 1048576 ≤ 1048576) ∧ distMap[120 - 1]? = some (8, 7) := by decide +kernel

/-- SubSampledSizes: the last pixel of 9×5 with 4×4 tiles, and the first. -/
theorem test_hyp_SubSampledSizes : (8 < 9 ∧ 4 < 5) ∧ (0 < 9 ∧ 0 < 5) := by decide

theorem test_hyp_LaneArithmetic : ∃ c : Word → Byte, c = chA ∨ c = chR ∨ c = chG ∨ c = chB := ⟨chB, by simp⟩

/-- InversePredictor, InverseColour: the corner, the top row, the left column, the last pixel of a 6×6 image. -/
theorem test_hyp_InversePredictor : ∀ p ∈ [(0, 0), (5, 0), (0, 5), (5, 5)],
    p.1 < (working 6 6 (List.replicate 36 0)).work.w ∧
    p.2 * (working 6 6 (List.replicate 36 0)).work.w + p.1 < (working 6 6 (List.replicate 36 0)).work.pix.length := by
  decide +kernel

/-- PaletteExpansion: a palette that fills its table, one that does not. -/
theorem test_hyp_PaletteExpansion :
    (3 ≤ 3 ∧ 1 ≤ [(0 : Word), 1].length ∧ [(0 : Word), 1].length ≤ 2 ^ (8 / 2 ^ 3) ∧ 1 < [(0 : Word), 1].length) ∧
    (0 ≤ 3 ∧ 1 ≤ [(0 : Word)].length ∧ [(0 : Word)].length ≤ 2 ^ (8 / 2 ^ 0) ∧ [(0 : Word)].length ≤ 255) := by decide

/-- InverseColourIndexing: the last pixel of V10.3's row. -/
theorem test_hyp_InverseColourIndexing : 3 ≤ 3 ∧ 4 < 5 ∧ 0 < (working 1 1 [0x0000A500]).work.h := by decide +kernel

/-- Records of a 6-wide image: colour indexing halves the width, subtract-green follows. -/
def records : List Xform := [⟨.colourIndexing, 6, 1, List.replicate 16 0⟩, ⟨.subtractGreen, 3, 0, []⟩]

theorem test_hyp_PipelineInverts :
    let s : State := { working 3 2 (List.replicate 6 0) with ops := inverseOps records ++ [.brFill] }
    s.host = [] ∧ s.ops = inverseOps records ++ [.brFill] ∧ widthAfter 6 records = some s.work.w := by decide +kernel

/-- BatchingEquivalence: no row, one row, every row. -/
theorem test_hyp_BatchingEquivalence : widthAfter 6 records = some 3 ∧ (List.replicate 6 (0 : Word)).length = 3 * 2 ∧
    0 ≤ 2 ∧ 1 ≤ 2 ∧ 2 ≤ 2 := by decide +kernel

/-- V11.6: a 1×40 image after its 16th pixel. -/
def rows16 : State :=
  { job0 .pixels .pixel { freshImg 1 40 true with codes := p3Codes, pix := List.replicate 16 0 } with rowsDone := 16 }

/-- V11.6: the same image in Finish. -/
def rows40 : State :=
  { job0 .finish .finish { freshImg 1 40 true with codes := p3Codes, pix := List.replicate 40 0 } with
    rowsDone := 40, rowsEmitted := 32 }

/-- A complete 1×16 image (R312, log 30). -/
def rows16of16 : State :=
  { job0 .pixels .pixel { freshImg 1 16 true with codes := p3Codes, pix := List.replicate 16 0 } with rowsDone := 16 }

/-- BatchEmitsRows: rows 0 to 15 of 40, and 32 to 39 in Finish; all 16 rows of a 16-row image. -/
theorem test_hyp_BatchEmitsRows :
    (rows16.host = [] ∧ rows16.ops = [] ∧ rows16.emit = .off ∧ rows16.phase.running = true ∧ rows16.nested = none ∧
      (∃ m, rows16.img0 = some m ∧ m.level0 = true ∧ m.ys = rows16.hdr.h ∧
        widthAfter rows16.hdr.w rows16.xfs = some m.xs ∧ m.xs * 16 ≤ m.pix.length ∧
        m.pix <+: List.replicate 40 0 ∧ (List.replicate 40 (0 : Word)).length = m.xs * m.ys) ∧
      0 = rows16.rowsEmitted ∧ rows16.stage = .pixel ∧ 16 ≤ rows16.rowsDone ∧ 16 ≤ rows16.hdr.h) ∧
    (rows40.host = [] ∧ rows40.ops = [] ∧ rows40.emit = .off ∧ rows40.phase.running = true ∧ rows40.nested = none ∧
      (∃ m, rows40.img0 = some m ∧ m.level0 = true ∧ m.ys = rows40.hdr.h ∧
        widthAfter rows40.hdr.w rows40.xfs = some m.xs ∧ m.xs * 40 ≤ m.pix.length ∧
        m.pix <+: List.replicate 40 0 ∧ (List.replicate 40 (0 : Word)).length = m.xs * m.ys) ∧
      rows40.stage = .finish ∧ rows40.rowsEmitted < rows40.hdr.h ∧ 40 = rows40.hdr.h) ∧
    (rows16of16.host = [] ∧ rows16of16.ops = [] ∧ rows16of16.emit = .off ∧ rows16of16.phase.running = true ∧
      rows16of16.nested = none ∧
      (∃ m, rows16of16.img0 = some m ∧ m.level0 = true ∧ m.ys = rows16of16.hdr.h ∧
        widthAfter rows16of16.hdr.w rows16of16.xfs = some m.xs ∧ m.xs * 16 ≤ m.pix.length ∧
        m.pix <+: List.replicate 16 0 ∧ (List.replicate 16 (0 : Word)).length = m.xs * m.ys) ∧
      0 = rows16of16.rowsEmitted ∧ rows16of16.stage = .pixel ∧ 16 ≤ rows16of16.rowsDone ∧
      16 = rows16of16.hdr.h) :=
  ⟨⟨by decide +kernel, by decide +kernel, by decide +kernel, by decide +kernel, by decide +kernel,
      ⟨_, rfl, by decide +kernel⟩, by decide +kernel⟩,
    ⟨by decide +kernel, by decide +kernel, by decide +kernel, by decide +kernel, by decide +kernel,
      ⟨_, rfl, by decide +kernel⟩, by decide +kernel⟩,
    ⟨by decide +kernel, by decide +kernel, by decide +kernel, by decide +kernel, by decide +kernel,
      ⟨_, rfl, by decide +kernel⟩, by decide +kernel⟩⟩

/-- A finished 1×1 job. -/
def done1 : State :=
  { State.reset with
    phase := .done, status := 2, info := 0x10000000
    sink := { size := some (1, 1, 4), sets := [⟨0, 0, 10, 20, 30, 255⟩], whole := true, calls := 2 } }

/-- P1's pixel, as the host reads it. -/
theorem test_hyp_SinkCalls : done1.sink.whole = true ∧ isBusy done1 = false ∧ done1.sink.positions.Nodup ∧
    (⟨0, 0, 10, 20, 30, 255⟩ : SinkPixel) ∈ done1.sink.sets ∧ 0 < 1 ∧ hostSinkPixel done1 0 0 = 0xFF0A141E := by
  decide +kernel

/-- A complete 9×1 image, no row emitted. -/
def p3done : State :=
  { job0 .pixels .pixel { freshImg 9 1 true with codes := p3Codes, pix := List.replicate 9 0 } with rowsDone := 1, pos := 292 }

/-- JobEnd: the input just enough and one bit short; every row emitted. -/
theorem test_hyp_JobEnd :
    (p3done.host = [] ∧ p3done.ops = [] ∧ p3done.emit = .off ∧ p3done.phase.running = true ∧ p3done.nested = none ∧
      (∃ m, p3done.img0 = some m ∧ m.pix.length = m.xs * m.ys) ∧ p3done.stage = .pixel ∧
      p3done.rowsDone < p3done.rowsEmitted + 16 ∧ 292 ≤ 8 * (37 : Word).toNat ∧ 8 * (36 : Word).toNat < 292 ∧
      p3done.pos = 292) ∧
    (let s : State := { p3done with phase := .finish, stage := .finish, rowsEmitted := 1 }
     s.host = [] ∧ s.ops = [] ∧ s.emit = .off ∧ s.phase.running = true ∧ s.nested = none ∧ s.img0.isSome = true ∧
     s.stage = .finish ∧ s.rowsEmitted = s.hdr.h) :=
  ⟨⟨by decide +kernel, by decide +kernel, by decide +kernel, by decide +kernel, by decide +kernel,
      ⟨_, rfl, by decide +kernel⟩, by decide +kernel⟩, by decide +kernel⟩

/-- HostStart: BUSY; an input of LEN_MAX bytes and of one more. -/
theorem test_hyp_HostStart : isBusy p3 = true ∧
    (let s : State := { State.reset with params := ⟨5, 1⟩, inLen := 5 }
     isBusy s = false ∧ s.inLen.toNat ≤ s.params.lenMax) ∧
    (let s : State := { State.reset with params := ⟨5, 1⟩, inLen := 6 }
     isBusy s = false ∧ s.params.lenMax < s.inLen.toNat) := by decide +kernel

/-- RegisterAccess: a write of each register, while BUSY and not, START and not. -/
theorem test_hyp_RegisterAccess : (∀ r ∈ [Reg.ctrl, .inLen, .expect, .status, .info, .bitpos],
    ({ p3 with host := [.write r 1] } : State).host = .write r 1 :: []) ∧ isBusy p3 = true ∧ isBusy State.reset = false ∧
    (1 : Word).getLsbD 0 = true ∧ (0xFFFFFFFE : Word).getLsbD 0 = false := by decide +kernel

/-- V11.4; R23: bits 30:28 read 0. -/
theorem test_step_expect :
    (onNext (step { p3 with host := [.write .expect 0xFFFFFFFF] }) fun t => t.expect == 0) = true ∧
    (onNext (step { State.reset with host := [.write .expect 0xFFFFFFFF] }) fun t => t.expect == 0x8FFFFFFF) = true := by
  decide +kernel

theorem test_hyp_ResetState : ({ p3 with host := [.reset] } : State).host = .reset :: [] := by decide +kernel

/-- StepRunsTheInstruction: P3 at its copy; an operation waiting; each phase with no job; a pass. -/
theorem test_hyp_StepRunsTheInstruction :
    (atElement p3 = true ∧ ∃ c, fetchCtx p3 = some c ∧ decode c (window p3) = .ok (.pxBackref 260 0 8 7)) ∧
    (let s : State := { p3 with ops := [.sinkAlloc 9 1] }; s.host = [] ∧ s.ops = .sinkAlloc 9 1 :: []) ∧
    (State.reset.host = [] ∧ State.reset.ops = [] ∧ State.reset.phase = .idle ∧ done1.host = [] ∧ done1.ops = [] ∧
      done1.phase = .done) ∧
    ({ p3 with host := [.pass] } : State).host = .pass :: [] :=
  ⟨⟨by decide +kernel, _, rfl, by decide +kernel⟩, by decide +kernel, by decide +kernel, by decide +kernel⟩

/-- StepKeepsInv, InvNeverStops, SinkInRasterOrder, CodedWidthsAgree, CacheInPixelOrder, StatusAgreesWithPhase: P3 at
its copy takes a step with every invariant. -/
theorem test_hyp_StepKeepsInv : Inv p3 ∧ sinkOk p3 = true ∧ widthsOk p3 = true ∧ cachesOk p3 = true ∧
    onNext (step p3) (fun t => t.phase == .pixels) = true := by decide +kernel

/-- The same of P7's meta image, and of a batch of rows. -/
theorem test_hyp_StepKeepsInv_nested : Inv p7meta ∧ sinkOk p7meta = true ∧ widthsOk p7meta = true ∧
    cachesOk p7meta = true ∧ onNext (step p7meta) (fun t => t.phase == .codes) = true ∧
    Inv rows16 ∧ sinkOk rows16 = true ∧ onNext (step rows16) (fun t => t.emit == .inverting 0 16) = true := by
  decide +kernel

/-- CursorNeverDecreases: P3 at its copy, and past the end of its input; a pass, a register write, an ignored START and a
write of `IN` while BUSY; a write of IN_LEN between jobs. -/
theorem test_hyp_CursorNeverDecreases :
    (∀ l ∈ [[], [HostAct.pass], [.write .inLen 100], [.write .ctrl 1], [.writeIn 0 0]],
      let s : State := { p3 with host := l, inLen := 35 }
      s.ops.all isIssued = true ∧ s.host.head? ≠ some .reset ∧ isBusy s = true ∧ isEos s = true ∧
      onNext (step s) (fun _ => true) = true) ∧
    (let s : State := { done1 with host := [.write .inLen 100] }
     s.ops.all isIssued = true ∧ s.host.head? ≠ some .reset ∧ isBusy s = false ∧
     onNext (step s) (fun _ => true) = true) := by decide +kernel

/-- ElementFrame: P3's copy; a token of a nested image's code. -/
theorem test_hyp_ElementFrame :
    (isElement (.pxBackref 260 0 8 7) = true ∧ isHeader (.pxBackref 260 0 8 7) = false ∧
      namedXform? (.pxBackref 260 0 8 7) = none ∧
      onNext (exec (.pxBackref 260 0 8 7) p3) (fun t => t.phase != .error) = true) ∧
    (isElement (.clLit 0) = true ∧ isPixelElement (.clLit 0) = false ∧
      (jobN (.token fourTokens [] 9 8) (.palette 2) (freshImg 3 1 false)).nested.isSome = true ∧
      onNext (exec (.clLit 0) (jobN (.token fourTokens [] 9 8) (.palette 2) (freshImg 3 1 false)))
        (fun t => t.phase != .error) = true) := by decide +kernel

/-- OperationFrame: an operation of each kind; an insertion into the cache of a nested image, another slot. -/
theorem test_hyp_OperationFrame : (∀ i ∈ [Instr.brRead 24, .brFill, .huffDecode (.channel 0 0), .ccLookup 0, .invSubgreen,
      .predM5 0 0 0 0, .sinkSet 0 0 0, .groupSelect 4 0],
    isOperation i = true ∧ onNext (exec i { p3 with work := ⟨1, 1, [0]⟩ }) (fun _ => true) = true) ∧
    (let m : Img := { complete with cc := freshCache 1 }
     let s : State := { p7meta with nested := some ⟨.groupMap 2, m⟩ }
     curImg s = some m ∧ s.nested.isSome = true ∧ isOperation (.ccInsert 0xFFFFFFFF) = true ∧
     hash 0xFFFFFFFF m.cc.bits = 1 ∧ 0 ≠ hash 0xFFFFFFFF m.cc.bits ∧
     onNext (exec (.ccInsert 0xFFFFFFFF) s) (fun _ => true) = true) := by decide +kernel

/-- AlphaHintInert: two states, and two headers, that differ in the hint alone; an element that goes on. -/
theorem test_hyp_AlphaHintInert : withAlpha 0 p3 ≠ withAlpha 1 p3 ∧ (withAlpha 1 p3).info = 0x10000008 ∧
    (withAlpha 0 p3).info = 0x00000008 ∧ Reg.status ≠ .info ∧ isHeader (.pxBackref 260 0 8 7) = false ∧
    Instr.pxBackref 260 0 8 7 ≠ .hostStart ∧
    onNext (exec (.pxBackref 260 0 8 7) p3) (fun t => t.phase != .error) = true := by decide +kernel

/-- IgnoredBits: pairs that differ in every ignored bit. -/
theorem test_hyp_IgnoredBits :
    (0xFFFFF0FF : Word).extractLsb' 8 4 = (0 : Word).extractLsb' 8 4 ∧
    [(0xFFFFF7FF : Word)].map (·.extractLsb' 8 4) = [(0x700 : Word)].map (·.extractLsb' 8 4) ∧
    (0xFF123456 : Word).extractLsb' 0 24 = (0x00123456 : Word).extractLsb' 0 24 ∧
    (0xFF0001FF : Word).extractLsb' 8 16 = (0x00000100 : Word).extractLsb' 8 16 ∧
    [(0xFFFF64FF : Word)].map chG = [(0x00006400 : Word)].map chG ∧ (oneSymbol 40 8).length ≤ 40 := by decide +kernel

/-- R312's pseudocode (log 30): an image of 16 rows emits its batch before Finish. -/
theorem test_sixteen_rows : (onNext (step rows16of16) fun t => t.emit == .inverting 0 16) = true := by
  decide +kernel

/-- SinkInRasterOrder at the end of a job: the sink has the size INFO shows. -/
theorem test_hyp_SinkInRasterOrder_done : Inv done1 ∧ sinkOk done1 = true ∧
    onNext (step done1) (fun t => t.phase == .done) = true := by decide +kernel

end Sys2Proof.Machine
end

section
/-! PROOFS, family 00_scope: sub-sampled sizes (R8) and the tile index of a pixel in a sub-image (R160). -/

namespace Sys2Proof.Machine

/-- `subSize s b` is the least number of tiles of side `2^b` that cover `s` pixels (R8). -/
theorem subSize_le_iff (s b k : Nat) : subSize s b ≤ k ↔ s ≤ k * 2 ^ b := by
  rw [subSize_eq, ← Nat.ceilDiv_eq_add_pred_div, ceilDiv_le_iff_le_mul (Nat.two_pow_pos b), Nat.mul_comm]

/-- Every pixel of a row (or column) lies in one of its tiles. -/
theorem div_lt_subSize {x s : Nat} (b : Nat) (hx : x < s) : x / 2 ^ b < subSize s b := by
  by_contra h
  have hcover : s ≤ x / 2 ^ b * 2 ^ b := (subSize_le_iff s b _).1 (Nat.le_of_not_lt h)
  exact absurd (hx.trans_le hcover) (Nat.not_lt.2 (Nat.div_mul_le_self x _))

theorem tileIndex_eq (w b x y : Nat) : tileIndex w b x y = y / 2 ^ b * subSize w b + x / 2 ^ b := by
  simp only [tileIndex, Nat.shiftRight_eq_div_pow]

/-- The tile index is within the sub-image of a `w` by `h` image (R160). -/
theorem tileIndex_lt {w h x y : Nat} (b : Nat) (hx : x < w) (hy : y < h) :
    tileIndex w b x y < subSize w b * subSize h b := by
  rw [tileIndex_eq, Nat.mul_comm (y / _), Nat.mul_comm (subSize w b) (subSize h b)]
  exact Nat.mul_add_lt_mul_of_lt_of_lt (div_lt_subSize b hy) (div_lt_subSize b hx)

/-- A tile's column is the remainder of its index by the sub-image's width. -/
theorem tileIndex_mod {w x : Nat} (b y : Nat) (hx : x < w) : tileIndex w b x y % subSize w b = x / 2 ^ b := by
  rw [tileIndex_eq, Nat.mul_add_mod', Nat.mod_eq_of_lt (div_lt_subSize b hx)]

/-- A tile's row is the quotient of its index by the sub-image's width. -/
theorem tileIndex_div {w x : Nat} (b y : Nat) (hx : x < w) : tileIndex w b x y / subSize w b = y / 2 ^ b := by
  have hcol := div_lt_subSize b hx
  rw [tileIndex_eq, Nat.mul_comm, Nat.mul_add_div (Nat.zero_lt_of_lt hcol), Nat.div_eq_of_lt hcol, Nat.add_zero]

/-- Two pixels share a tile index exactly when they lie in the same tile. -/
theorem tileIndex_eq_iff {w x x' : Nat} (b y y' : Nat) (hx : x < w) (hx' : x' < w) :
    tileIndex w b x' y' = tileIndex w b x y ↔ x' / 2 ^ b = x / 2 ^ b ∧ y' / 2 ^ b = y / 2 ^ b := by
  constructor
  · intro hidx
    rw [← tileIndex_mod b y' hx', ← tileIndex_mod b y hx, ← tileIndex_div b y' hx', ← tileIndex_div b y hx, hidx]
    exact ⟨rfl, rfl⟩
  · rintro ⟨hcol, hrow⟩
    rw [tileIndex_eq, tileIndex_eq, hcol, hrow]

/-- Settles O33: the index is the mixed-radix number of the tile's row and column, whose digits division by the
sub-image's width recovers. -/
theorem subSampledSizes : Obligations.SubSampledSizes := by
  intro w h b x y hx hy
  exact ⟨subSize_le_iff w b, tileIndex_eq w b x y, tileIndex_lt b hx hy,
    fun x' y' hx' _ => tileIndex_eq_iff b y y' hx hx'⟩

end Sys2Proof.Machine
end

section
/-! PROOFS, family 10_state: what a stream element does, said once (spec/30_encoding.md R82 to R89), and what it leaves
unchanged (O57). -/

namespace Sys2Proof.Machine

/-- A code is being read at this position (R87, R88). -/
def readsCode : Stage → Bool
  | .hcode | .maxsym _ | .token _ _ _ _ => true
  | .idle | .header | .xform | .ccache | .metaBit | .pixel | .palette | .finish => false

/-- Everything a stream element `i` can do to `s` when it has a next state (see `exec_element`). Fitting a code's
lengths or tokens into its alphabet is said relative to `stageOk`, which the position supplies. -/
inductive ElementDoes (i : Instr) (s : State) : State → Prop
  /-- The job fails `n` bits on (R340). -/
  | fails (k : Failure) (n : Nat) : ElementDoes i s (abortState k (advance n s))
  /-- A header is accepted (R141). -/
  | header (hd : Hdr) (hi : isHeader i = true) (hst : s.stage = .header) (hw : hd.w - 1 < 2 ^ 14)
      (hh : hd.h - 1 < 2 ^ 14) (hv : hd.ver = 0) :
      ElementDoes i s { advance 40 s with
        hdr := hd, info := infoWord hd, xsize := hd.w, phase := .xform, stage := .xform }
  /-- The transform list ends and level 0 begins (R150). -/
  | xformEnd (hi : i = .xformEnd) (hst : s.stage = .xform) :
      ElementDoes i s { advance 1 s with
        phase := .ccache, stage := .ccache, img0 := some (freshImg s.xsize s.hdr.h true) }
  /-- A transform's sub-image begins (R145, R146, R148). -/
  | subImage (k : XKind) (u : SubUse) (xs ys n : Nat) (hi : namedXform? i = some k) (hst : s.stage = .xform)
      (hseen : wasSeen s.seen k = false) (hu : pendingKind (some ⟨u, freshImg xs ys false⟩) = [k]) :
      ElementDoes i s { advance n s with
        seen := markSeen s.seen k, nested := some ⟨u, freshImg xs ys false⟩, stage := .ccache }
  /-- A subtract-green record joins the list (R147). -/
  | subtractGreen (hi : i = .xformSubgreen) (hst : s.stage = .xform) (hseen : wasSeen s.seen .subtractGreen = false) :
      ElementDoes i s { pushXform ⟨.subtractGreen, s.xsize, 0, []⟩ (advance 3 s) with
        seen := markSeen s.seen .subtractGreen }
  /-- The current image gets its cache, empty (R152, R153). -/
  | cache (m : Img) (cc : CCache) (n : Nat) (hst : s.stage = .ccache) (hm : curImg s = some m) (hbits : cc.bits ≤ 11)
      (harr : cc.arr = List.replicate (cacheSize cc.bits) 0) :
      ElementDoes i s (afterCache { m with cc := cc } (advance n s))
  /-- Level 0 has no meta image (R154). -/
  | noMeta (m : Img) (hi : i = .metaOff) (hst : s.stage = .metaBit) (hm : s.img0 = some m) :
      ElementDoes i s (beginCodes { m with mt := noMap m.xs, ngroups := 1 } (advance 1 s))
  /-- The meta image begins (R155). -/
  | metaImage (m : Img) (mb : Nat) (hst : s.stage = .metaBit) (hm : s.img0 = some m) (hmb : mb ≠ 0) :
      ElementDoes i s { advance 4 s with
        nested := some ⟨.groupMap mb, freshImg (subSize m.xs mb) (subSize m.ys mb) false⟩, stage := .ccache }
  /-- The reading of a code goes on (R187 to R193). -/
  | codeGoesOn (m : Img) (st : Stage) (n : Nat) (hm : curImg s = some m) (hst : readsCode s.stage = true)
      (hst' : readsCode st = true) (hok : stageOk m s.stage = true → stageOk m st = true) :
      ElementDoes i s { advance n s with stage := st }
  /-- A code is complete and valid (R156, R200). -/
  | codeEnds (m : Img) (L : Code) (n : Nat) (hm : curImg s = some m) (hst : readsCode s.stage = true)
      (hL : validCode L = true) (hlen : stageOk m s.stage = true → L.length = nextAlphabet m) :
      ElementDoes i s (pushCode L m (advance n s))
  /-- Pixels are written, one after another (R222 to R224, R232). -/
  | pixels (m : Img) (vs : List Word) (n : Nat) (hi : isPixelElement i = true) (hst : s.stage = .pixel)
      (hm : curImg s = some m) (hroom : m.pix.length + vs.length ≤ m.size) :
      ElementDoes i s { setCurImg (vs.foldl Img.emit m) (advance n s) with
        rowsDone := if m.level0 then (vs.foldl Img.emit m).pos / (vs.foldl Img.emit m).xs else s.rowsDone }

/-! ## Writing pixels -/

/-- Writing pixels appends them and changes nothing else but the cache beside them (R222). -/
theorem foldl_emit_eq (vs : List Word) (m : Img) :
    vs.foldl Img.emit m = { m with pix := m.pix ++ vs, cc := (vs.foldl Img.emit m).cc } := by
  induction vs generalizing m with
  | nil => simp
  | cons v vs ih => rw [List.foldl_cons, ih, Img.emit_eq]; simp

@[simp] theorem foldl_emit_bits (vs : List Word) (m : Img) : (vs.foldl Img.emit m).cc.bits = m.cc.bits := by
  induction vs generalizing m with
  | nil => rfl
  | cons v vs ih => simp [ih]

@[simp] theorem foldl_emit_arr_length (vs : List Word) (m : Img) :
    (vs.foldl Img.emit m).cc.arr.length = m.cc.arr.length := by
  induction vs generalizing m with
  | nil => rfl
  | cons v vs ih => simp [ih]

@[simp] theorem foldl_emit_level0 (vs : List Word) (m : Img) : (vs.foldl Img.emit m).level0 = m.level0 := by
  rw [foldl_emit_eq]

/-- A copy writes `len` pixels one after another (R224). -/
theorem copy_eq_foldl_emit (dist len : Nat) (m : Img) :
    ∃ vs : List Word, vs.length = len ∧ m.copy dist len = vs.foldl Img.emit m := by
  induction len generalizing m with
  | zero => exact ⟨[], rfl, rfl⟩
  | succ len ih =>
    obtain ⟨vs, hlen, hcopy⟩ := ih (m.emit (pixAt m.pix (m.pos - dist)))
    exact ⟨_ :: vs, congrArg Nat.succ hlen, hcopy⟩

/-! ## The shared operations of elements -/

section
variable {i : Instr} {s t : State} {m : Img} {n : Nat}

theorem ElementDoes.of_abort {k : Failure} (h : abort k (advance n s) = .next t) : ElementDoes i s t := by
  rw [abort_next.1 h]; exact .fails k n

theorem ElementDoes.of_finishCode {L : Code} (hm : curImg s = some m) (hst : readsCode s.stage = true)
    (hlen : stageOk m s.stage = true → L.length = nextAlphabet m)
    (h : finishCode L m (advance n s) = .next t) : ElementDoes i s t := by
  obtain ⟨-, rfl⟩ | ⟨-, -, rfl⟩ | ⟨-, hL, rfl⟩ := finishCode_next.1 h
  · exact .fails _ n
  · exact .fails _ n
  · exact .codeEnds m L n hm hst hL hlen

theorem ElementDoes.of_simpleCode {xs : List Nat} (h : simpleCode xs n s = .next t) : ElementDoes i s t := by
  obtain ⟨hst, m, hm, hfin⟩ := simpleCode_next.1 h
  exact .of_finishCode hm (by simp [hst, readsCode]) (fun _ => by simp [foldl_simpleSet_length]) hfin

/-- After a token whose lengths fit the alphabet: the next token, or the end of the code. -/
theorem ElementDoes.of_nextToken {cl : Code} {lens lens' : List Nat} {left left' prev prev' : Nat}
    (hst : s.stage = .token cl lens left prev) (hm : curImg s = some m)
    (hfit : lens.length < nextAlphabet m → lens'.length ≤ nextAlphabet m)
    (h : nextToken cl lens' left' prev' m (advance n s) = .next t) : ElementDoes i s t := by
  obtain ⟨hroom, hleft, rfl⟩ | ⟨-, hfin⟩ := nextToken_next.1 h
  · refine .codeGoesOn m _ n hm (by simp [hst, readsCode]) rfl fun hok => ?_
    simp_all [stageOk]
  · refine .of_finishCode hm (by simp [hst, readsCode]) (fun hok => ?_) hfin
    have hlt : lens.length < nextAlphabet m := by simp_all [stageOk]
    simp [Nat.add_sub_cancel' (hfit hlt)]

theorem ElementDoes.of_runToken {tok eb rep : Nat} {len : Nat → Nat} (h : runToken tok eb rep len s = .next t) :
    ElementDoes i s t := by
  obtain ⟨cl, lens, left, prev, m, hst, hm, ⟨-, rfl⟩ | ⟨hfit, hnext⟩⟩ := runToken_next.1 h
  · exact .fails _ _
  · exact .of_nextToken hst hm (fun _ => by simpa using hfit) hnext

/-- The token loop begins where the code-length code is in force (R188). -/
theorem ElementDoes.of_beginTokens {cl : Code} {left : Nat} (hst : s.stage = .maxsym cl) (hm : curImg s = some m)
    (hleft : left ≠ 0) (h : beginTokens cl left (advance n s) = .next t) : ElementDoes i s t := by
  obtain rfl : t = { advance n s with stage := .token cl [] left 8 } := by simpa [beginTokens, eq_comm] using h
  refine .codeGoesOn m _ n hm (by simp [hst, readsCode]) rfl fun hok => ?_
  have hA : 0 < nextAlphabet m := by unfold nextAlphabet alphabetSize; split_ifs <;> omega
  simp_all [stageOk]

/-- A transform element that opens a sub-image. -/
theorem ElementDoes.of_beginXform {k : XKind} {u : SubUse} {xs ys : Nat} {body : State → Out}
    (hi : namedXform? i = some k) (hu : pendingKind (some ⟨u, freshImg xs ys false⟩) = [k])
    (hbody : body { s with seen := markSeen s.seen k } =
      openNested u xs ys (advance n { s with seen := markSeen s.seen k }))
    (h : beginXform k body s = .next t) : ElementDoes i s t := by
  obtain ⟨hst, ⟨-, rfl⟩ | ⟨hseen, hopen⟩⟩ := beginXform_next.1 h
  · exact .fails _ 3
  · rw [hbody, openNested_next] at hopen
    obtain ⟨-, rfl⟩ := hopen
    exact .subImage k u xs ys n hi hst hseen hu

theorem ElementDoes.of_finishElement {vs : List Word} (hi : isPixelElement i = true) (hst : s.stage = .pixel)
    (hm : curImg s = some m) (hroom : m.pix.length + vs.length ≤ m.size)
    (h : finishElement (vs.foldl Img.emit m) (advance n s) = .next t) : ElementDoes i s t := by
  have hpix := ElementDoes.pixels m vs n hi hst hm hroom
  rw [finishElement_next, foldl_emit_level0] at h
  obtain ⟨-, rfl⟩ | ⟨-, hl, rfl⟩ | ⟨-, hl, rfl⟩ := h
  · exact .fails _ n
  · simpa [hl] using hpix
  · simp only [hl] at hpix
    convert hpix using 1
    unfold setCurImg; split <;> rfl

/-- One pixel written where the image has room (R220). -/
theorem ElementDoes.of_emit {v : Word} (hi : isPixelElement i = true) (hst : s.stage = .pixel)
    (hm : curImg s = some m) (hroom : m.pos < m.size)
    (h : finishElement (m.emit v) (advance n s) = .next t) : ElementDoes i s t :=
  .of_finishElement (vs := [v]) hi hst hm hroom h

end

/-! ## The elements -/

section
variable {i : Instr} {s t : State}

theorem execHdr_does {magic : BitVec 8} {w h : BitVec 14} {a : BitVec 1} {v : BitVec 3} (hi : isHeader i = true)
    (hx : execHdr magic w h a v s = .next t) : ElementDoes i s t := by
  simp only [execHdr, whenStage_next, decide_eq_true_eq] at hx
  obtain ⟨hst, hx⟩ := hx
  split_ifs at hx with hmagic hv
  · exact .of_abort hx
  · rw [abort_next.1 hx]; exact .fails _ 40
  · rw [abort_next.1 hx]; exact .fails _ 40
  · rw [abort_next.1 hx]; exact .fails _ 40
  · cases hx
    exact .header _ hi hst w.isLt h.isLt (not_not.1 hv)

theorem execXformEnd_does (hx : execXformEnd s = .next t) : ElementDoes .xformEnd s t := by
  simp only [execXformEnd, whenStage_next, decide_eq_true_eq] at hx
  obtain ⟨hst, hx⟩ := hx
  split_ifs at hx
  cases hx
  exact .xformEnd rfl hst

theorem execXformPred_does {b : BitVec 3} (hx : execXformPred b s = .next t) : ElementDoes (.xformPred b) s t := by
  unfold execXformPred at hx
  exact .of_beginXform rfl rfl rfl hx

theorem execXformXcolor_does {b : BitVec 3} (hx : execXformXcolor b s = .next t) :
    ElementDoes (.xformXcolor b) s t := by
  unfold execXformXcolor at hx
  exact .of_beginXform rfl rfl rfl hx

theorem execXformCindex_does {n : BitVec 8} (hx : execXformCindex n s = .next t) :
    ElementDoes (.xformCindex n) s t := by
  unfold execXformCindex at hx
  exact .of_beginXform rfl rfl rfl hx

theorem execXformSubgreen_does (hx : execXformSubgreen s = .next t) : ElementDoes .xformSubgreen s t := by
  obtain ⟨hst, ⟨-, rfl⟩ | ⟨hseen, hx⟩⟩ := beginXform_next.1 hx
  · exact .fails _ 3
  · cases hx
    exact .subtractGreen rfl hst hseen

theorem execCcacheOff_does (hx : execCcacheOff s = .next t) : ElementDoes i s t := by
  simp only [execCcacheOff, whenStage_next, withImg_next, decide_eq_true_eq] at hx
  obtain ⟨hst, m, hm, hx⟩ := hx
  cases hx
  exact .cache m _ 1 hst hm (Nat.zero_le _) rfl

theorem execCcacheOn_does {c : BitVec 4} (hx : execCcacheOn c s = .next t) : ElementDoes i s t := by
  simp only [execCcacheOn, whenStage_next, withImg_next, decide_eq_true_eq] at hx
  obtain ⟨hst, m, hm, hx⟩ := hx
  split_ifs at hx with hc
  · exact .of_abort hx
  · cases hx
    have hne : c.toNat ≠ 0 := by omega
    exact .cache m (freshCache c.toNat) 5 hst hm (by simp only [freshCache]; omega)
      (by simp [freshCache, cacheSize, hne])

theorem execMetaOff_does (hx : execMetaOff s = .next t) : ElementDoes .metaOff s t := by
  simp only [execMetaOff, whenStage_next, decide_eq_true_eq] at hx
  obtain ⟨hst, hx⟩ := hx
  split at hx
  next m hm => cases hx; exact .noMeta m rfl hst hm
  next => cases hx

theorem execMetaOn_does {b : BitVec 3} (hx : execMetaOn b s = .next t) : ElementDoes i s t := by
  simp only [execMetaOn, whenStage_next, decide_eq_true_eq] at hx
  obtain ⟨hst, hx⟩ := hx
  split at hx
  next m hm =>
    obtain ⟨-, rfl⟩ := openNested_next.1 hx
    exact .metaImage m _ hst hm (Nat.succ_ne_zero _)
  next => cases hx

theorem execHcodeNormal_does {k : BitVec 4} {lens : List (BitVec 3)} (hx : execHcodeNormal k lens s = .next t) :
    ElementDoes i s t := by
  simp only [execHcodeNormal, whenStage_next, withImg_next, decide_eq_true_eq] at hx
  obtain ⟨hst, m, hm, hx⟩ := hx
  split_ifs at hx with hcl
  · cases hx
    exact .codeGoesOn m _ _ hm (by simp [hst, readsCode]) rfl fun hok => by
      simp_all [stageOk, clLengths_length]
  · exact .of_abort hx

theorem execMaxsymOff_does (hx : execMaxsymOff s = .next t) : ElementDoes i s t := by
  obtain ⟨cl, m, hst, hm, hx⟩ := atMaxsym_next.1 hx
  exact .of_beginTokens hst hm (by unfold nextAlphabet alphabetSize; split_ifs <;> omega) hx

theorem execMaxsymOn_does {n : BitVec 3} {k : Nat} (hx : execMaxsymOn n k s = .next t) : ElementDoes i s t := by
  obtain ⟨cl, m, hst, hm, hx⟩ := atMaxsym_next.1 hx
  split_ifs at hx
  · exact .of_abort hx
  · exact .of_beginTokens hst hm (by omega) hx

theorem execClLit_does {tok : BitVec 4} (hx : execClLit tok s = .next t) : ElementDoes i s t := by
  obtain ⟨cl, lens, left, prev, m, hst, hm, hx⟩ := atToken_next.1 hx
  exact .of_nextToken hst hm (fun hlt => by simpa using hlt) hx

theorem execPxLiteral_does {g r b a : BitVec 8} (hx : execPxLiteral g r b a s = .next t) :
    ElementDoes (.pxLiteral g r b a) s t := by
  obtain ⟨hst, m, cs, hm, hroom, -, hx⟩ := atPixel_next.1 hx
  exact .of_emit rfl hst hm hroom hx

theorem execPxCache_does {g : Nat} (hx : execPxCache g s = .next t) : ElementDoes (.pxCache g) s t := by
  obtain ⟨hst, m, cs, hm, hroom, -, hx⟩ := atPixel_next.1 hx
  exact .of_emit rfl hst hm hroom hx

theorem execPxBackref_does {g le d de : Nat} (hx : execPxBackref g le d de s = .next t) :
    ElementDoes (.pxBackref g le d de) s t := by
  obtain ⟨hst, m, cs, hm, hroom, -, hx⟩ := atPixel_next.1 hx
  dsimp only at hx
  split_ifs at hx with heos hout
  · exact .of_abort hx
  · exact .of_abort hx
  · obtain ⟨vs, hlen, hcopy⟩ := copy_eq_foldl_emit (backrefDist m d de) (backrefLen g le) m
    rw [hcopy] at hx
    refine .of_finishElement rfl hst hm ?_ hx
    have hfit : ¬ m.size - m.pos < backrefLen g le := fun hlt => hout (by simp [outOfBounds, hlt])
    simp only [Img.pos] at hfit hroom
    omega

/-- Everything a stream element can do when it has a next state. -/
theorem exec_element (hi : isElement i = true) (hx : exec i s = .next t) : ElementDoes i s t := by
  cases i with
  | hdr => exact execHdr_does rfl hx
  | xformEnd => exact execXformEnd_does hx
  | xformPred => exact execXformPred_does hx
  | xformXcolor => exact execXformXcolor_does hx
  | xformCindex => exact execXformCindex_does hx
  | xformSubgreen => exact execXformSubgreen_does hx
  | ccacheOff => exact execCcacheOff_does hx
  | ccacheOn => exact execCcacheOn_does hx
  | metaOff => exact execMetaOff_does hx
  | metaOn => exact execMetaOn_does hx
  | hcodeS1b1 | hcodeS1b8 | hcodeS2b1 | hcodeS2b8 => exact .of_simpleCode hx
  | hcodeNormal => exact execHcodeNormal_does hx
  | maxsymOff => exact execMaxsymOff_does hx
  | maxsymOn => exact execMaxsymOn_does hx
  | clLit => exact execClLit_does hx
  | clRep16 | clZero17 | clZero18 => exact .of_runToken hx
  | pxLiteral => exact execPxLiteral_does hx
  | pxBackref => exact execPxBackref_does hx
  | pxCache => exact execPxCache_does hx
  | _ => cases hi

end

/-! ## The two updates that depend on the level -/

/-- After the cache, in one update: level 0 reads its meta bit, a nested image its codes (R140, R151). -/
theorem afterCache_eq (m : Img) (s : State) :
    afterCache m s = { setCurImg (if m.level0 then m else { m with mt := noMap m.xs, ngroups := 1 }) s with
      phase := if m.level0 then .metaCfg else s.phase, stage := if m.level0 then .metaBit else .hcode } := by
  unfold afterCache; split_ifs <;> simp

/-- `m`'s last code joins it: every group then has its five (R156). -/
def lastOfCodes (m : Img) : Bool := 5 * m.ngroups ≤ m.codes.length + 1

/-- A complete code, in one update: after the last one of level 0 the sink is allocated (R140, R311). -/
theorem pushCode_eq (L : Code) (m : Img) (s : State) :
    pushCode L m s = { setCurImg { m with codes := m.codes ++ [L] } s with
      phase := if lastOfCodes m && m.level0 then .pixels else s.phase
      stage := if lastOfCodes m then .pixel else .hcode
      ops := s.ops ++ if lastOfCodes m && m.level0 then [.sinkAlloc s.hdr.w s.hdr.h] else [] } := by
  unfold pushCode enterPixels lastOfCodes
  by_cases hmore : m.codes.length + 1 < 5 * m.ngroups
  · simp [hmore, Nat.not_le.2 hmore]
  · cases m.level0 <;> simp [hmore, Nat.not_lt.1 hmore]

/-! ## The frame of an element -/

section
variable {i : Instr} {s t : State}

/-- No element writes the input, the host's registers or the sink, or moves the cursor back. -/
theorem ElementDoes.keeps_input (h : ElementDoes i s t) :
    t.inMem = s.inMem ∧ t.inLen = s.inLen ∧ t.expect = s.expect ∧ t.params = s.params ∧ t.host = s.host ∧
    t.inFree = s.inFree ∧ t.sink.size = s.sink.size ∧ t.sink.sets = s.sink.sets ∧ t.sink.calls = s.sink.calls ∧
    s.pos ≤ t.pos ∧ (isHeader i = false → t.info = s.info) := by
  cases h <;> simp [afterCache_eq, pushCode_eq, *]

/-- While the job goes on, an element keeps what the host and the row emission hold. -/
theorem ElementDoes.keeps_emission (h : ElementDoes i s t) (ht : t.phase ≠ .error) :
    t.status = s.status ∧ t.sink = s.sink ∧ t.rowsEmitted = s.rowsEmitted ∧ t.res = s.res ∧ t.emit = s.emit ∧
    t.work = s.work ∧ t.freeCtr = s.freeCtr ∧ s.ops <+: t.ops := by
  cases h with
  | fails => exact absurd rfl ht
  | _ => simp [afterCache_eq, pushCode_eq]

/-- While the job goes on, each decoder register is written by its own elements alone. -/
theorem ElementDoes.keeps_registers (h : ElementDoes i s t) (ht : t.phase ≠ .error) :
    s.xfs <+: t.xfs ∧ (isHeader i = false → t.hdr = s.hdr ∧ t.xsize = s.xsize) ∧
    (namedXform? i = none → t.seen = s.seen) ∧ (isPixelElement i = false → t.rowsDone = s.rowsDone) ∧
    (i ≠ .xformSubgreen → t.xfs = s.xfs) ∧
    (s.nested.isSome = true → i ≠ .xformEnd → i ≠ .metaOff → t.img0 = s.img0) := by
  cases h with
  | fails => exact absurd rfl ht
  | subtractGreen hi => subst hi; simp [namedXform?]
  | cache | codeEnds | pixels => simp +contextual [afterCache_eq, pushCode_eq, *]
  | _ => simp [*]

end

/-- Settles O57, case by case over what an element does. -/
theorem elementFrame : Obligations.ElementFrame := by
  intro i s t hi hx
  have hdoes := exec_element hi hx
  obtain ⟨hmem, hlen, hexp, hpar, hhost, hfree, hsize, hsets, hcalls, hpos, hinfo⟩ := hdoes.keeps_input
  refine ⟨fun _ => by rw [hmem], hmem, hlen, hexp, hpar, hhost, hfree, hsize, hsets, hcalls, hpos, hinfo, fun ht => ?_⟩
  obtain ⟨hstatus, hsink, hrows, hres, hemit, hwork, hctr, hops⟩ := hdoes.keeps_emission ht
  exact ⟨hstatus, hsink, hrows, hres, hemit, hwork, hctr, hops, hdoes.keeps_registers ht⟩

end Sys2Proof.Machine
end

section
/-! PROOFS, family 10_state: what an internal operation does, said once, and what it leaves unchanged (O58). -/

namespace Sys2Proof.Machine

/-- Everything an internal operation `i` can do to `s` when it has a next state (see `exec_operation`). -/
inductive OperationDoes (i : Instr) (s : State) : State → Prop
  /-- It consumes `n` bits and returns `r` (R120 to R124, R199, R221, R235, R267, R288). -/
  | returns (n : Nat) (r : Result) (hn : consumesBits i = false → n = 0) (hr : returnsResult i = false → r = s.res) :
      OperationDoes i s (setRes r (advance n s))
  /-- It rewrites the pixels of the image in the pipeline (R260). -/
  | inverts (w : Nat) (pix : List Word) (hi : isInverse i = true) :
      OperationDoes i s { s with work := { s.work with w := w, pix := pix } }
  /-- It calls the sink (R311, R316). -/
  | callsSink (k : Sink) (hi : isSinkCall i = true) : OperationDoes i s { s with sink := k }
  /-- It inserts a pixel into the cache of the current image (R233). -/
  | inserts (v : Word) (m : Img) (hi : i = .ccInsert v) (hm : curImg s = some m) :
      OperationDoes i s (setCurImg { m with cc := m.cc.insert v } s)

section
variable {i : Instr} {s t : State}

theorem execHuffDecode_does {c : CodeSel} (hx : execHuffDecode c s = .next t) :
    OperationDoes (.huffDecode c) s t := by
  unfold execHuffDecode at hx
  split at hx
  · cases hx
  · split at hx
    · cases hx
    next sym n _ => cases hx; exact .returns n _ nofun nofun

theorem execGroupSelect_does {x y : Nat} (hx : execGroupSelect x y s = .next t) :
    OperationDoes (.groupSelect x y) s t := by
  unfold execGroupSelect at hx
  split at hx
  · cases hx
  · split at hx
    · cases hx
    · cases hx; exact .returns 0 _ (fun _ => rfl) nofun

theorem execCcInsert_does {v : Word} (hx : execCcInsert v s = .next t) : OperationDoes (.ccInsert v) s t := by
  unfold execCcInsert at hx
  split at hx
  · cases hx
  next m hm => cases hx; exact .inserts v m rfl hm

theorem execCcLookup_does {key : Nat} (hx : execCcLookup key s = .next t) : OperationDoes (.ccLookup key) s t := by
  unfold execCcLookup at hx
  split at hx
  · cases hx
  · cases hx; exact .returns 0 _ (fun _ => rfl) nofun

/-- A predictor mode returns its prediction. -/
theorem runPredict_does {m : Nat} {l tp tr tl : Word} (hi : returnsResult i = true)
    (hx : runPredict m l tp tr tl s = .next t) : OperationDoes i s t := by
  cases hx
  exact .returns 0 _ (fun _ => rfl) fun hr => by simp [hi] at hr

/-- Everything an internal operation can do when it has a next state. -/
theorem exec_operation (hi : isOperation i = true) (hx : exec i s = .next t) : OperationDoes i s t := by
  cases i with
  | predM0 | predM1 | predM2 | predM3 | predM4 | predM5 | predM6 | predM7 | predM8 | predM9 | predM10 | predM11
  | predM12 | predM13 | predM14 | predM15 => exact runPredict_does rfl hx
  | brRead n => cases hx; exact .returns n _ nofun nofun
  | brPeek n => cases hx; exact .returns 0 _ (fun _ => rfl) nofun
  | brFill => cases hx; exact .returns 0 s.res (fun _ => rfl) fun _ => rfl
  | brEos => cases hx; exact .returns 0 _ (fun _ => rfl) nofun
  | brAdvance n => cases hx; exact .returns n s.res nofun fun _ => rfl
  | huffDecode c => exact execHuffDecode_does hx
  | groupSelect x y => exact execGroupSelect_does hx
  | ccInsert v => exact execCcInsert_does hx
  | ccLookup key => exact execCcLookup_does hx
  | invPred | invXcolor | invSubgreen | invCindex => cases hx; exact .inverts _ _ rfl
  | paletteExpand => cases hx; exact .returns 0 _ (fun _ => rfl) nofun
  | sinkAlloc | sinkSet => cases hx; exact .callsSink _ rfl
  | _ => cases hi

end

/-- Insertion leaves every slot but the one at the pixel's hash (R233). -/
theorem insert_getElem?_of_ne {cc : CCache} {v : Word} {k : Nat} (hk : k ≠ hash v cc.bits) :
    (cc.insert v).arr[k]? = cc.arr[k]? := List.getElem?_set_ne hk.symm

/-- The image being decoded stays it, whole but for the one slot of its cache that CC_INSERT writes. -/
def KeepsCurImg (i : Instr) (s t : State) : Prop :=
  (curImg t).isSome = (curImg s).isSome ∧
  ∀ m, curImg s = some m → ∃ arr, curImg t = some { m with cc := { m.cc with arr := arr } } ∧
    arr.length = m.cc.arr.length ∧
    ∀ k, (∀ v, i = .ccInsert v → k ≠ hash v m.cc.bits) → arr[k]? = m.cc.arr[k]?

theorem KeepsCurImg.of_eq {i : Instr} {s t : State} (h0 : t.img0 = s.img0) (hn : t.nested = s.nested) :
    KeepsCurImg i s t := by
  have hcur : curImg t = curImg s := by simp only [curImg, h0, hn]
  exact ⟨by rw [hcur], fun m hm => ⟨m.cc.arr, hcur.trans hm, rfl, fun _ _ => rfl⟩⟩

theorem KeepsCurImg.of_insert {v : Word} {s : State} {m : Img} (hm : curImg s = some m) :
    KeepsCurImg (.ccInsert v) s (setCurImg { m with cc := m.cc.insert v } s) := by
  refine ⟨by simp [hm], fun m' hm' => ?_⟩
  obtain rfl : m = m' := Option.some.inj (hm.symm.trans hm')
  exact ⟨(m.cc.insert v).arr, curImg_setCurImg _ _, CCache.insert_length _ _,
    fun k hk => insert_getElem?_of_ne (hk v rfl)⟩

/-- Settles O58, case by case over what an operation does. -/
theorem operationFrame : Obligations.OperationFrame := by
  intro i s t hi hx
  cases exec_operation hi hx with
  | returns n r hn hr =>
    exact ⟨fun _ => rfl, rfl, fun hc => by simp [hn hc], hr, fun _ => rfl, rfl, fun _ => rfl, fun _ => ⟨rfl, rfl⟩,
      fun _ => rfl, rfl, KeepsCurImg.of_eq rfl rfl⟩
  | inverts w pix hinv =>
    exact ⟨fun _ => rfl, rfl, fun _ => rfl, fun _ => rfl, fun hni => by simp [hinv] at hni, rfl, fun _ => rfl,
      fun _ => ⟨rfl, rfl⟩, fun _ => rfl, rfl, KeepsCurImg.of_eq rfl rfl⟩
  | callsSink k hcall =>
    exact ⟨fun _ => rfl, rfl, fun _ => rfl, fun _ => rfl, fun _ => rfl, rfl, fun hnc => by simp [hcall] at hnc,
      fun _ => ⟨rfl, rfl⟩, fun _ => rfl, rfl, KeepsCurImg.of_eq rfl rfl⟩
  | inserts v m hins hm =>
    subst hins
    refine ⟨fun _ => by simp, ?_, fun _ => by simp, fun _ => by simp, fun _ => by simp, by simp, fun _ => by simp,
      fun hne => absurd rfl (hne v), fun hs => by simp [hs], ?_, KeepsCurImg.of_insert hm⟩
    · unfold setCurImg; split <;> rfl
    · cases hn : s.nested <;> simp [hn]

end Sys2Proof.Machine
end

section
/-! PROOFS, family 10_state: what a step does, said once; the host's registers (O46), the cursor (O56), STATUS (O55). -/

namespace Sys2Proof.Machine

/-! ## Turns of the control flow -/

/-- Everything a turn of the control flow that no element makes can do (see `sequence_does`). -/
inductive TurnDoes (s : State) : State → Prop
  /-- The SINK_SETs of an inverted batch are issued (R313). -/
  | setsIssued (y0 y1 : Nat) (he : s.emit = .inverting y0 y1) :
      TurnDoes s { s with ops := s.ops ++ rowSets s.hdr.w y0 y1 s.work.pix, emit := .sinking y1 }
  /-- A batch is out (R313). -/
  | batchOut (y1 : Nat) (he : s.emit = .sinking y1) : TurnDoes s { s with rowsEmitted := y1, emit := .off }
  /-- A complete batch of rows goes into the pipeline (R312). -/
  | batchDue (m : Img) (he : s.emit = .off) (hst : s.stage = .pixel) (hm : curImg s = some m) (hl : m.level0 = true)
      (hdue : s.rowsEmitted + rowBatch ≤ s.rowsDone) :
      TurnDoes s (beginBatch s.rowsEmitted (s.rowsEmitted + rowBatch) m s)
  /-- The last rows go into the pipeline (R314). -/
  | lastBatch (m : Img) (he : s.emit = .off) (hst : s.stage = .finish) (hm : s.img0 = some m)
      (hleft : s.rowsEmitted < s.hdr.h) : TurnDoes s (beginBatch s.rowsEmitted s.hdr.h m s)
  /-- A tile sub-image becomes its record's data (R145, R146). -/
  | tilesEnd (n : Nested) (k : XKind) (bits : Nat) (he : s.emit = .off) (hst : s.stage = .pixel)
      (hn : s.nested = some n) (hfull : n.img.size ≤ n.img.pos) (hk : pendingKind (some n) = [k])
      (hne : k ≠ .colourIndexing) : TurnDoes s (endTransform ⟨k, s.xsize, bits, n.img.pix⟩ s)
  /-- PALETTE_EXPAND is issued for a complete palette (R148). -/
  | paletteIssued (wb : Nat) (m : Img) (he : s.emit = .off) (hst : s.stage = .pixel)
      (hn : s.nested = some ⟨.palette wb, m⟩) (hfull : m.size ≤ m.pos) :
      TurnDoes s { s with stage := .palette, ops := s.ops ++ [.paletteExpand m.pix wb] }
  /-- The expanded palette becomes its record's data and the coded width shrinks (R148). -/
  | paletteEnds (wb : Nat) (m : Img) (he : s.emit = .off) (hst : s.stage = .palette)
      (hn : s.nested = some ⟨.palette wb, m⟩) :
      TurnDoes s { endTransform ⟨.colourIndexing, s.xsize, wb, s.res.palette⟩ s with xsize := subSize s.xsize wb }
  /-- The meta image becomes the group indexes of level 0 (R155). -/
  | metaEnds (mb : Nat) (mi m : Img) (he : s.emit = .off) (hst : s.stage = .pixel)
      (hn : s.nested = some ⟨.groupMap mb, mi⟩) (hfull : mi.size ≤ mi.pos) (hm : s.img0 = some m) :
      TurnDoes s (beginCodes { m with
        mt := metaMap m mb mi.pix, ngroups := groupCount (metaMap m mb mi.pix).idx } s)
  /-- The stream has ended inside level 0 (R158). -/
  | endCheckFails (he : s.emit = .off) : TurnDoes s (abortState .unexpectedEndOfStream s)
  /-- Level 0 is complete (R140). -/
  | level0Ends (m : Img) (he : s.emit = .off) (hst : s.stage = .pixel) (hn : s.nested = none) (hm : s.img0 = some m)
      (hfull : m.size ≤ m.pos) : TurnDoes s { s with phase := .finish, stage := .finish }
  /-- The job has succeeded (R314). -/
  | jobEnds (he : s.emit = .off) (hst : s.stage = .finish) (hout : s.hdr.h ≤ s.rowsEmitted) : TurnDoes s (finishJob s)

section
variable {s t : State}

/-- Every element the sequencer reads is one the decoder gives (R82). -/
theorem runElement_does (h : runElement s = .next t) : ∃ i, ElementDoes i s t := by
  obtain ⟨c, i, -, hdec, hx⟩ := runElement_next.1 h
  exact ⟨i, exec_element (decode_admitted_kind hdec).1 hx⟩

theorem TurnDoes.of_endSubImage {n : Nested} (he : s.emit = .off) (hst : s.stage = .pixel) (hn : s.nested = some n)
    (hfull : n.img.size ≤ n.img.pos) (h : endSubImage n s = .next t) : TurnDoes s t := by
  obtain ⟨u, mi⟩ := n
  obtain ⟨bits, rfl, rfl⟩ | ⟨bits, rfl, rfl⟩ | ⟨wb, rfl, rfl⟩ | ⟨mb, m, rfl, hm, rfl⟩ := endSubImage_next.1 h
  · exact .tilesEnd _ .predictor bits he hst hn hfull rfl nofun
  · exact .tilesEnd _ .crossColour bits he hst hn hfull rfl nofun
  · exact .paletteIssued wb mi he hst hn hfull
  · exact .metaEnds mb mi m he hst hn hfull hm

theorem TurnDoes.of_endLevel0 {m : Img} (he : s.emit = .off) (hst : s.stage = .pixel) (hn : s.nested = none)
    (hm : s.img0 = some m) (hfull : m.size ≤ m.pos) (h : endLevel0 s = .next t) : TurnDoes s t := by
  obtain ⟨-, rfl⟩ | ⟨-, rfl⟩ := endLevel0_next.1 h
  · exact .endCheckFails he
  · exact .level0Ends m he hst hn hm hfull

theorem pixelMove_does (he : s.emit = .off) (hst : s.stage = .pixel) (h : pixelMove s = .next t) :
    (∃ i, ElementDoes i s t) ∨ TurnDoes s t := by
  obtain ⟨m, hm, h⟩ := pixelMove_next.1 h
  split_ifs at h with hdue hroom
  · rw [h]
    simp only [Bool.and_eq_true, decide_eq_true_eq] at hdue
    exact .inr (.batchDue m he hst hm hdue.1 hdue.2)
  · exact .inl (runElement_does h)
  · obtain ⟨n, hn, h⟩ | ⟨hn, h⟩ := h
    · obtain rfl : n.img = m := by simpa [curImg, hn] using hm
      exact .inr (.of_endSubImage he hst hn (Nat.not_lt.1 hroom) h)
    · have hm0 : s.img0 = some m := by simpa [curImg, hn] using hm
      exact .inr (.of_endLevel0 he hst hn hm0 (Nat.not_lt.1 hroom) h)

theorem finishMove_does (he : s.emit = .off) (hst : s.stage = .finish) (h : finishMove s = .next t) :
    TurnDoes s t := by
  obtain ⟨hleft, m, hm, rfl⟩ | ⟨hout, rfl⟩ := finishMove_next.1 h
  · exact .lastBatch m he hst hm hleft
  · exact .jobEnds he hst hout

/-- The sequencer's move is an element, read while no batch is in emission, or a turn. -/
theorem sequence_does (h : Machine.sequence s = .next t) :
    (s.emit = .off ∧ ∃ i, ElementDoes i s t) ∨ TurnDoes s t := by
  obtain ⟨y0, y1, he, rfl⟩ | ⟨y1, he, rfl⟩ | ⟨he, hst, h⟩ | ⟨he, hst, h⟩ | ⟨he, hst, h⟩ | ⟨he, -, -, -, h⟩ :=
    sequence_next.1 h
  · exact .inr (.setsIssued y0 y1 he)
  · exact .inr (.batchOut y1 he)
  · exact (pixelMove_does he hst h).imp_left (.intro he)
  · obtain ⟨wb, m, hn, rfl⟩ := endPalette_next.1 h
    exact .inr (.paletteEnds wb m he hst hn)
  · exact .inr (finishMove_does he hst h)
  · exact .inl ⟨he, runElement_does h⟩

/-- The core's move is an operation that waits, an element, a turn, or, with no job running, nothing. -/
theorem coreMove_does (h : coreMove s = .next t) :
    (∃ i rest, s.ops = i :: rest ∧ exec i { s with ops := rest } = .next t) ∨
    (s.ops = [] ∧ s.emit = .off ∧ ∃ i, ElementDoes i s t) ∨ (s.ops = [] ∧ TurnDoes s t) ∨ t = s := by
  obtain hop | ⟨hops, -, h⟩ | ⟨-, -, rfl⟩ := coreMove_next.1 h
  · exact .inl hop
  · obtain ⟨he, helem⟩ | hturn := sequence_does h
    · exact .inr (.inl ⟨hops, he, helem⟩)
    · exact .inr (.inr (.inl ⟨hops, hturn⟩))
  · exact .inr (.inr (.inr rfl))

theorem execHostStart_does (h : execHostStart s = .next t) : t = s ∨ (isBusy s = false ∧ t = startJob s) := by
  unfold execHostStart at h
  split_ifs at h with hbusy
  · cases h; exact .inl rfl
  · cases h; exact .inr ⟨by simpa using hbusy, rfl⟩

/-- A step is the host's next access if it has one, else the core's move. -/
theorem step_does (h : step s = .next t) :
    (s.host = [] ∧ coreMove s = .next t) ∨
    ∃ a rest, s.host = a :: rest ∧ hostMove a { s with host := rest } = .next t := by
  cases hh : s.host with
  | nil => exact .inl ⟨rfl, step_core hh ▸ h⟩
  | cons a rest => exact .inr ⟨a, rest, rfl, step_host hh ▸ h⟩

end

/-! ## A property every step keeps -/

/-- Each kind of move keeps `P`. -/
structure KeptByMoves (P : State → Prop) : Prop where
  host : ∀ {s : State} (rest : List HostAct), P s → P { s with host := rest }
  start : ∀ {s : State}, P s → isBusy s = false → P (startJob s)
  reset : ∀ {s : State}, P s → P (hardReset s)
  writeReg : ∀ {s : State} (r : Reg) (v : Word), P s → P (writeReg r v s)
  writeIn : ∀ {s : State} (a : BitVec 32) (b : Byte), P s → P (writeIn a b s)
  operation : ∀ {s t : State} {i : Instr} {rest : List Instr}, P s → s.ops = i :: rest →
    exec i { s with ops := rest } = .next t → P t
  element : ∀ {s t : State} {i : Instr}, P s → s.ops = [] → s.emit = .off → ElementDoes i s t → P t
  turn : ∀ {s t : State}, P s → s.ops = [] → TurnDoes s t → P t

namespace KeptByMoves
variable {P : State → Prop} {s t : State}

theorem coreMove (k : KeptByMoves P) (hs : P s) (h : coreMove s = .next t) : P t := by
  obtain ⟨i, rest, hops, hx⟩ | ⟨hops, he, i, hdoes⟩ | ⟨hops, hdoes⟩ | rfl := coreMove_does h
  · exact k.operation hs hops hx
  · exact k.element hs hops he hdoes
  · exact k.turn hs hops hdoes
  · exact hs

theorem hostMove (k : KeptByMoves P) {a : HostAct} (hs : P s) (h : hostMove a s = .next t) : P t := by
  obtain ⟨-, h⟩ | ⟨v, -, h⟩ | ⟨r, v, -, -, rfl⟩ | ⟨x, b, -, rfl⟩ | ⟨-, rfl⟩ := hostMove_next.1 h
  · exact k.coreMove hs h
  · split_ifs at h
    · obtain rfl | ⟨hbusy, rfl⟩ := execHostStart_does h
      · exact hs
      · exact k.start hs hbusy
    · cases h; exact hs
  · exact k.writeReg r v hs
  · exact k.writeIn x b hs
  · exact k.reset hs

/-- A property every kind of move keeps is kept by a step. -/
theorem step (k : KeptByMoves P) (hs : P s) (h : step s = .next t) : P t := by
  obtain ⟨-, h⟩ | ⟨a, rest, -, h⟩ := step_does h
  · exact k.coreMove hs h
  · exact k.hostMove (k.host rest hs) h

end KeptByMoves

/-! ## The host's registers -/

/-- Bits 30:28 of EXPECT read 0, the others as written (R23). -/
theorem expectMask_fields (v : Word) :
    (expectMask v).extractLsb' 0 28 = v.extractLsb' 0 28 ∧ (expectMask v).extractLsb' 28 3 = 0 ∧
    (expectMask v).getLsbD 31 = v.getLsbD 31 := by
  have hlow : ∀ j < 28, (0x8FFFFFFF#32).getLsbD j = true := by decide
  have hmid : ∀ j < 3, (0x8FFFFFFF#32).getLsbD (28 + j) = false := by decide
  refine ⟨?_, ?_, ?_⟩
  · ext j hj
    simp [expectMask, hlow j hj]
  · ext j hj
    simp [expectMask, hmid j hj]
  · simp [expectMask]

/-- A write of CTRL is a START or nothing (R21). -/
theorem hostMove_writeCtrl (v : Word) (s : State) :
    hostMove (.write .ctrl v) s = if v.getLsbD 0 then exec .hostStart s else .next s := by
  simp only [hostMove, decodeCtrl]
  cases v.getLsbD 0 <;> rfl

/-- While BUSY no register is written but by CTRL (R27). -/
theorem writeReg_of_busy (r : Reg) (v : Word) {s : State} (h : isBusy s = true) : writeReg r v s = s := by
  cases r <;> simp [writeReg, h]

theorem writeReg_inLen_of_idle (v : Word) {s : State} (h : isBusy s = false) :
    writeReg .inLen v s = { s with inLen := v } := by simp [writeReg, h]

theorem writeReg_expect_of_idle (v : Word) {s : State} (h : isBusy s = false) :
    writeReg .expect v s = { s with expect := expectMask v } := by simp [writeReg, h]

/-- Settles O46, register by register. -/
theorem registerAccess : Obligations.RegisterAccess := by
  intro s r v rest
  refine ⟨fun hhost => ?_, rfl, rfl, rfl, rfl, rfl, by simp [readReg]⟩
  have hbusy : isBusy { s with host := rest } = isBusy s := rfl
  rw [step_host hhost]
  refine ⟨?_, ?_, ?_, ?_, ?_, ?_⟩
  · rintro (rfl | rfl | rfl) <;> rfl
  · rintro (rfl | rfl) hb <;> exact congrArg _ (writeReg_of_busy _ v (hbusy.trans hb))
  · rintro rfl hb
    exact congrArg _ (writeReg_inLen_of_idle v (hbusy.trans hb))
  · rintro rfl hb
    exact ⟨expectMask v, congrArg _ (writeReg_expect_of_idle v (hbusy.trans hb)), expectMask_fields v⟩
  · rintro rfl hstart
    rw [hostMove_writeCtrl, hstart]; rfl
  · rintro rfl hstart
    rw [hostMove_writeCtrl, hstart]; rfl

/-! ## The cursor -/

section
variable {s t : State}

theorem isOperation_of_isIssued {i : Instr} (h : isIssued i = true) : isOperation i = true := by
  cases i with
  | sinkAlloc | sinkSet | invPred | invXcolor | invSubgreen | invCindex | paletteExpand => rfl
  | _ => cases h

/-- No operation moves the cursor back or writes IN_LEN. -/
theorem OperationDoes.keeps_cursor {i : Instr} (h : OperationDoes i s t) : s.pos ≤ t.pos ∧ t.inLen = s.inLen := by
  cases h <;> simp

/-- No turn moves the cursor or writes IN_LEN. -/
theorem TurnDoes.keeps_cursor (h : TurnDoes s t) : t.pos = s.pos ∧ t.inLen = s.inLen := by
  cases h <;> simp

/-- The core's move never moves the cursor back and leaves IN_LEN. -/
theorem coreMove_keeps_cursor (hissued : s.ops.all isIssued = true) (h : coreMove s = .next t) :
    s.pos ≤ t.pos ∧ t.inLen = s.inLen := by
  obtain ⟨i, rest, hops, hx⟩ | ⟨-, -, i, hdoes⟩ | ⟨-, hdoes⟩ | rfl := coreMove_does h
  · simp only [hops, List.all_cons, Bool.and_eq_true] at hissued
    exact (exec_operation (isOperation_of_isIssued hissued.1) hx).keeps_cursor
  · obtain ⟨-, hlen, -, -, -, -, -, -, -, hpos, -⟩ := hdoes.keeps_input
    exact ⟨hpos, hlen⟩
  · exact ⟨hdoes.keeps_cursor.1.ge, hdoes.keeps_cursor.2⟩
  · exact ⟨le_rfl, rfl⟩

/-- Only a write of IN_LEN while no job runs changes the end-of-stream bound (R22). -/
theorem writeReg_keeps_cursor (r : Reg) (v : Word) (s : State) :
    (writeReg r v s).pos = s.pos ∧ ((r = .inLen → isBusy s = true) → (writeReg r v s).inLen = s.inLen) := by
  cases r <;> simp [writeReg] <;> split_ifs <;> simp [*]

theorem writeIn_keeps_cursor (a : BitVec 32) (b : Byte) (s : State) :
    (writeIn a b s).pos = s.pos ∧ (writeIn a b s).inLen = s.inLen := by
  unfold writeIn; dsimp only; split_ifs <;> exact ⟨rfl, rfl⟩

/-- The host moves the cursor back by a reset and by a START between jobs alone. -/
theorem hostMove_keeps_cursor {a : HostAct} (hissued : s.ops.all isIssued = true) (hreset : a ≠ .reset)
    (hstart : ∀ v, a = .write .ctrl v → v.getLsbD 0 = true → isBusy s = true) (h : hostMove a s = .next t) :
    s.pos ≤ t.pos ∧ ((∀ v, a = .write .inLen v → isBusy s = true) → t.inLen = s.inLen) := by
  obtain ⟨-, h⟩ | ⟨v, rfl, hctrl⟩ | ⟨r, v, -, rfl, rfl⟩ | ⟨x, b, -, rfl⟩ | ⟨rfl, -⟩ := hostMove_next.1 h
  · exact (coreMove_keeps_cursor hissued h).imp_right fun hlen _ => hlen
  · split_ifs at hctrl with hv
    · obtain rfl | ⟨hidle, -⟩ := execHostStart_does hctrl
      · exact ⟨le_rfl, fun _ => rfl⟩
      · simp [hstart v rfl hv] at hidle
    · cases hctrl; exact ⟨le_rfl, fun _ => rfl⟩
  · obtain ⟨hpos, hlen⟩ := writeReg_keeps_cursor r v s
    exact ⟨hpos.ge, fun hbusy => hlen fun hr => hbusy v (by rw [hr])⟩
  · obtain ⟨hpos, hlen⟩ := writeIn_keeps_cursor x b s
    exact ⟨hpos.ge, fun _ => hlen⟩
  · exact absurd rfl hreset

/-- A cursor past the end stays past it. -/
theorem isEos_mono (hpos : s.pos ≤ t.pos) (hlen : t.inLen = s.inLen) (h : isEos s = true) : isEos t = true := by
  simp only [isEos, decide_eq_true_eq, hlen] at h ⊢
  omega

end

/-- Settles O56: the core never moves the cursor back, and of the host's accesses only a reset and a START do. -/
theorem cursorNeverDecreases : Obligations.CursorNeverDecreases := by
  intro s t hissued hreset hstart h
  obtain ⟨-, h⟩ | ⟨a, rest, hhost, h⟩ := step_does h
  · obtain ⟨hpos, hlen⟩ := coreMove_keeps_cursor hissued h
    exact ⟨hpos, fun heos _ => isEos_mono hpos hlen heos⟩
  · simp only [hhost, List.head?_cons, ne_eq, Option.some.injEq] at hreset hstart ⊢
    obtain ⟨hpos, hlen⟩ := hostMove_keeps_cursor (s := { s with host := rest }) hissued hreset hstart h
    exact ⟨hpos, fun heos hwrite => isEos_mono hpos (hlen hwrite) heos⟩

/-! ## STATUS -/

/-- STATUS is the word its phase gives it; after a failure, that of some kind (R24, R30). -/
theorem statusOk_iff (s : State) :
    statusOk s = true ↔
      (s.phase = .idle ∧ s.status = 0) ∨ (s.phase = .done ∧ s.status = statusDone) ∨
      (s.phase = .error ∧ ∃ k, s.status = statusFailed k) ∨ (s.phase.running = true ∧ s.status = statusBusy) := by
  unfold statusOk
  cases hp : s.phase <;> simp [Phase.running]
  constructor
  · rintro (h | h | h | h | h | h) <;> exact ⟨_, h⟩
  · rintro ⟨k, h⟩
    cases k <;> simp [h]

/-- Settles O55, phase by phase: the fields of the one STATUS word each admits. -/
theorem statusAgreesWithPhase : Obligations.StatusAgreesWithPhase := by
  rintro s ⟨-, hstatus, -⟩
  simp only [isBusy, isDone, isError]
  obtain ⟨hp, hw⟩ | ⟨hp, hw⟩ | ⟨hp, k, hw⟩ | ⟨hp, hw⟩ := (statusOk_iff s).1 hstatus
  · rw [hp, hw]; decide
  · rw [hp, hw]; decide
  · rw [hp, hw]; cases k <;> decide
  · rw [hw]; revert hp; cases s.phase <;> decide

end Sys2Proof.Machine
end

section
/-! PROOFS, family 10_state: what the control invariant says of an image context and of a grammar position
(spec/10_state.md R35 to R39; spec/30_encoding.md R82). -/

namespace Sys2Proof.Machine

/-! ## Image contexts -/

theorem imgOk_iff (m : Img) :
    imgOk m = true ↔ m.cc.bits ≤ 11 ∧ m.cc.arr.length = cacheSize m.cc.bits ∧ 1 ≤ m.ngroups ∧ mapWidthOk m = true ∧
      mapOk m = true ∧ codesOk m = true ∧ m.pix.length ≤ m.size := by
  simp [imgOk, and_assoc]

theorem codesOk_of_nil {m : Img} (h : m.codes = []) : codesOk m = true := by simp [codesOk, h]

/-- A valid code over the next alphabet joins the codes (R156). -/
theorem codesOk_append {m : Img} {L : Code} (h : codesOk m = true) (hroom : m.codes.length < 5 * m.ngroups)
    (hL : validCode L = true) (hlen : L.length = nextAlphabet m) :
    codesOk { m with codes := m.codes ++ [L] } = true := by
  simp only [codesOk, Bool.and_eq_true, decide_eq_true_eq] at h ⊢
  refine ⟨by simpa using hroom, ?_⟩
  simp [List.zipIdx_append, h.2, hL, hlen, nextAlphabet]

/-- Without a meta image the map is well formed (R37). -/
theorem mapOk_noMap (m : Img) (xs g : Nat) : mapOk { m with mt := noMap xs, ngroups := g } = true := rfl

theorem imgOk_freshImg (xs ys : Nat) (l : Bool) : imgOk (freshImg xs ys l) = true := by
  simp [imgOk_iff, freshImg, cacheSize, mapWidthOk, mapOk, codesOk, subSize]

/-- An image without codes takes another cache (R152, R153). -/
theorem imgOk_withCache {m : Img} {cc : CCache} (h : imgOk m = true) (hnil : m.codes = []) (hbits : cc.bits ≤ 11)
    (harr : cc.arr = List.replicate (cacheSize cc.bits) 0) : imgOk { m with cc := cc } = true := by
  obtain ⟨-, -, hgroups, hwidth, hmap, -, hpix⟩ := (imgOk_iff m).1 h
  exact (imgOk_iff _).2 ⟨hbits, by simp [harr], hgroups, hwidth, hmap, codesOk_of_nil hnil, hpix⟩

/-- An image without codes goes without a meta image (R151, R154). -/
theorem imgOk_withoutMap {m : Img} (h : imgOk m = true) (hnil : m.codes = []) :
    imgOk { m with mt := noMap m.xs, ngroups := 1 } = true := by
  obtain ⟨hbits, harr, -, -, -, -, hpix⟩ := (imgOk_iff m).1 h
  exact (imgOk_iff _).2
    ⟨hbits, harr, le_rfl, by simp [mapWidthOk, noMap], mapOk_noMap m _ _, codesOk_of_nil hnil, hpix⟩

theorem imgOk_withCode {m : Img} {L : Code} (h : imgOk m = true) (hroom : m.codes.length < 5 * m.ngroups)
    (hL : validCode L = true) (hlen : L.length = nextAlphabet m) : imgOk { m with codes := m.codes ++ [L] } = true := by
  obtain ⟨hbits, harr, hgroups, hwidth, hmap, hcodes, hpix⟩ := (imgOk_iff m).1 h
  exact (imgOk_iff _).2 ⟨hbits, harr, hgroups, hwidth, hmap, codesOk_append hcodes hroom hL hlen, hpix⟩

/-- Pixels may be written up to the image's size (R220). -/
theorem imgOk_emit {m : Img} {vs : List Word} (h : imgOk m = true) (hroom : m.pix.length + vs.length ≤ m.size) :
    imgOk (vs.foldl Img.emit m) = true := by
  obtain ⟨hbits, harr, hgroups, hwidth, hmap, hcodes, -⟩ := (imgOk_iff m).1 h
  have hbits' := foldl_emit_bits vs m
  have harr' := foldl_emit_arr_length vs m
  rw [foldl_emit_eq]
  generalize (vs.foldl Img.emit m).cc = cc at hbits' harr' ⊢
  refine (imgOk_iff _).2 ⟨by simpa [hbits'] using hbits, by simpa [harr', hbits'] using harr, hgroups, hwidth, hmap, ?_,
    by simpa [Img.size] using hroom⟩
  simpa [codesOk, hbits'] using hcodes

theorem lt_groupCount {idx : List Nat} {g : Nat} (hg : g ∈ idx) : g < groupCount idx := by
  have hle : ∀ (l : List Nat) (b : Nat), b ≤ l.foldl max b ∧ ∀ x ∈ l, x ≤ l.foldl max b := by
    intro l
    induction l with
    | nil => simp
    | cons y ys ih =>
      intro b
      obtain ⟨hb, hys⟩ := ih (max b y)
      simp only [List.foldl_cons, List.mem_cons, forall_eq_or_imp]
      exact ⟨by omega, by omega, hys⟩
  exact Nat.lt_succ_of_le ((hle idx 0).2 g hg)

/-- A complete meta image gives level 0 its groups, one index a tile (R155, R157). -/
theorem imgOk_withMap {m mi : Img} {mb : Nat} (h : imgOk m = true) (hl : m.level0 = true) (hnil : m.codes = [])
    (hxs : mi.xs = subSize m.xs mb) (hys : mi.ys = subSize m.ys mb) (hfull : mi.pix.length = mi.size) :
    imgOk { m with mt := metaMap m mb mi.pix, ngroups := groupCount (metaMap m mb mi.pix).idx } = true := by
  obtain ⟨hbits, harr, -, -, -, -, hpix⟩ := (imgOk_iff m).1 h
  refine (imgOk_iff _).2
    ⟨hbits, harr, Nat.le_add_left _ _, by simp [mapWidthOk, metaMap], ?_, codesOk_of_nil hnil, hpix⟩
  have hall : ∀ p ∈ mi.pix, groupIndex p < groupCount (mi.pix.map groupIndex) :=
    fun p hp => lt_groupCount (List.mem_map_of_mem hp)
  simp [mapOk, metaMap, hl, hfull, Img.size, hxs, hys]
  exact .inr fun p hp => decide_eq_true (hall p hp)

/-! ## The grammar position -/

/-- PHASE at a position of level 0 (R140). -/
def level0Phase : Stage → Option Phase
  | .ccache => some .ccache
  | .metaBit => some .metaCfg
  | .hcode | .maxsym _ | .token _ _ _ _ => some .codes
  | .pixel => some .pixels
  | .finish => some .finish
  | .idle | .header | .xform | .palette => none

/-- A nested image is decoded for a transform, before level 0 begins, or for the groups of level 0 (R151, R159). -/
def nestedPlace (s : State) (n : Nested) : Prop :=
  (s.phase = .xform ∧ s.img0 = none ∧ useOk n.use s.stage = true) ∨
  (s.phase = .metaCfg ∧ ∃ m, s.img0 = some m ∧ level0Ok s m = true ∧ stageOk m .metaBit = true ∧
    groupMapOk m n s.stage = true)

section
variable {s t : State} {m : Img} {n : Nested}

theorem positionOk_level0_iff (hn : s.nested = none) (h0 : s.img0 = some m) :
    positionOk s = true ↔ level0Ok s m = true ∧ stageOk m s.stage = true ∧ level0Phase s.stage = some s.phase := by
  unfold positionOk
  rw [hn, h0]
  cases s.phase <;> cases s.stage <;> simp [level0Phase]

theorem positionOk_nested_iff (hn : s.nested = some n) :
    positionOk s = true ↔ nestedOk n s.stage = true ∧ nestedPlace s n := by
  unfold positionOk nestedPlace
  rw [hn]
  cases s.phase <;> cases s.img0 <;> simp [and_assoc]
  tauto

theorem positionOk_noImage_iff (hn : s.nested = none) (h0 : s.img0 = none) :
    positionOk s = true ↔
      (s.phase.running = false ∧ s.stage = .idle ∧ s.ops = [] ∧ s.emit = .off ∧ s.xfs = []) ∨
      (s.phase = .header ∧ s.stage = .header ∧ s.xfs = [] ∧ s.seen = 0) ∨ (s.phase = .xform ∧ s.stage = .xform) := by
  unfold positionOk
  rw [hn, h0]
  cases s.phase <;> simp [Phase.running, and_assoc]

/-- What the position says of the image being decoded. -/
theorem positionOk_curImg (h : positionOk s = true) (hm : curImg s = some m) :
    imgOk m = true ∧ stageOk m s.stage = true ∧
      ((m.level0 = true ∧ s.nested = none ∧ s.img0 = some m ∧ level0Ok s m = true ∧
          level0Phase s.stage = some s.phase) ∨
        (m.level0 = false ∧ m.ngroups = 1 ∧ ∃ u, s.nested = some ⟨u, m⟩ ∧ nestedPlace s ⟨u, m⟩)) := by
  cases hn : s.nested with
  | none =>
    have h0 : s.img0 = some m := by simpa [curImg, hn] using hm
    obtain ⟨hl, hst, hph⟩ := (positionOk_level0_iff hn h0).1 h
    have hl' := hl
    simp only [level0Ok, Bool.and_eq_true] at hl'
    exact ⟨hl'.2, hst, .inl ⟨hl'.1.1.1, rfl, h0, hl, hph⟩⟩
  | some n =>
    obtain ⟨u, mi⟩ := n
    obtain rfl : mi = m := by simpa [curImg, hn] using hm
    obtain ⟨hok, hplace⟩ := (positionOk_nested_iff hn).1 h
    simp only [nestedOk, Bool.and_eq_true, Bool.not_eq_true', beq_iff_eq] at hok
    obtain ⟨⟨⟨hl, hg⟩, himg⟩, hst⟩ := hok
    exact ⟨himg, hst, .inr ⟨hl, hg, u, rfl, hplace⟩⟩

/-- At a position of no image there is none. -/
theorem noImage_of_stage (h : positionOk s = true) (hst : s.stage = .idle ∨ s.stage = .header ∨ s.stage = .xform) :
    s.nested = none ∧ s.img0 = none := by
  have hcur : curImg s = none := by
    by_contra hsome
    obtain ⟨m, hm⟩ := Option.ne_none_iff_exists'.1 hsome
    obtain ⟨-, hok, -⟩ := positionOk_curImg h hm
    rcases hst with hst | hst | hst <;> simp [hst, stageOk] at hok
  cases hn : s.nested <;> simp_all [curImg]

/-- Where HDR is next nothing of the job exists yet (R141). -/
theorem positionOk_header (h : positionOk s = true) (hst : s.stage = .header) :
    s.nested = none ∧ s.img0 = none ∧ s.xfs = [] ∧ s.seen = 0 := by
  obtain ⟨hn, h0⟩ := noImage_of_stage h (.inr (.inl hst))
  obtain ⟨-, hst', -⟩ | ⟨-, -, hxfs, hseen⟩ | ⟨-, hst'⟩ := (positionOk_noImage_iff hn h0).1 h
  · simp [hst] at hst'
  · exact ⟨hn, h0, hxfs, hseen⟩
  · simp [hst] at hst'

/-- Where a transform element is next no image is being decoded (R143). -/
theorem positionOk_xform (h : positionOk s = true) (hst : s.stage = .xform) :
    s.nested = none ∧ s.img0 = none ∧ s.phase = .xform := by
  obtain ⟨hn, h0⟩ := noImage_of_stage h (.inr (.inr hst))
  obtain ⟨-, hst', -⟩ | ⟨-, hst', -⟩ | ⟨hph, -⟩ := (positionOk_noImage_iff hn h0).1 h
  · simp [hst] at hst'
  · simp [hst] at hst'
  · exact ⟨hn, h0, hph⟩

/-- META_* is read at level 0 alone (R140, R151). -/
theorem positionOk_metaBit (h : positionOk s = true) (hst : s.stage = .metaBit) (h0 : s.img0 = some m) :
    s.nested = none ∧ level0Ok s m = true ∧ stageOk m .metaBit = true ∧ s.phase = .metaCfg := by
  cases hn : s.nested with
  | none =>
    obtain ⟨hl, hok, hph⟩ := (positionOk_level0_iff hn h0).1 h
    rw [hst] at hok hph
    exact ⟨rfl, hl, hok, (Option.some.inj hph).symm⟩
  | some n =>
    obtain ⟨-, ⟨-, h0', -⟩ | ⟨-, m', -, -, -, hmap⟩⟩ := (positionOk_nested_iff hn).1 h
    · simp [h0] at h0'
    · cases hu : n.use <;> simp [groupMapOk, hst, hu] at hmap

/-- A grammar position is one of a job that runs, and only HDR's is one of PHASE HEADER (R30). -/
theorem phase_of_stage (h : positionOk s = true) (hst : s.stage ≠ .idle) :
    s.phase.running = true ∧ (s.stage ≠ .header → s.phase ≠ .header) := by
  cases hm : curImg s with
  | none =>
    have hnone : s.nested = none ∧ s.img0 = none := by
      cases hn : s.nested <;> simp_all [curImg]
    obtain ⟨-, hidle, -⟩ | ⟨hph, hhdr, -⟩ | ⟨hph, -⟩ := (positionOk_noImage_iff hnone.1 hnone.2).1 h
    · exact absurd hidle hst
    · rw [hph]; exact ⟨rfl, fun hne => absurd hhdr hne⟩
    · rw [hph]; exact ⟨rfl, fun _ => nofun⟩
  | some m =>
    obtain ⟨-, -, ⟨-, -, -, -, hph⟩ | ⟨-, -, u, -, ⟨hph, -⟩ | ⟨hph, -⟩⟩⟩ := positionOk_curImg h hm
    · cases hs : s.stage <;> simp [hs, level0Phase] at hph <;> simp [← hph, Phase.running]
    · rw [hph]; exact ⟨rfl, fun _ => nofun⟩
    · rw [hph]; exact ⟨rfl, fun _ => nofun⟩

/-- Outside every job nothing is issued or in emission (R358). -/
theorem positionOk_idle (h : positionOk s = true) (hst : s.stage = .idle) : s.ops = [] ∧ s.emit = .off := by
  obtain ⟨hn, h0⟩ := noImage_of_stage h (.inl hst)
  obtain ⟨-, -, hops, he, -⟩ | ⟨-, hst', -⟩ | ⟨-, hst'⟩ := (positionOk_noImage_iff hn h0).1 h
  · exact ⟨hops, he⟩
  · simp [hst] at hst'
  · simp [hst] at hst'

/-! ## The image being decoded, updated -/

/-- A nested image may stand at this position for every use. -/
def nestedStage : Stage → Bool
  | .hcode | .maxsym _ | .token _ _ _ _ | .pixel => true
  | .idle | .header | .xform | .ccache | .metaBit | .palette | .finish => false

theorem nestedStage_of_readsCode {st : Stage} (h : readsCode st = true) : nestedStage st = true := by
  cases st <;> simp_all [readsCode, nestedStage]

theorem level0Phase_of_readsCode {st : Stage} (h : readsCode st = true) : level0Phase st = some .codes := by
  cases st <;> simp_all [readsCode, level0Phase]

theorem useOk_of_nestedStage {u : SubUse} {st st' : Stage} (h : useOk u st = true) (hst : nestedStage st' = true) :
    useOk u st' = true := by
  cases u <;> cases st' <;> simp_all [useOk, nestedStage]

/-- The meta image keeps its size and its use wherever it stands. -/
theorem groupMapOk_of_nestedStage {u : SubUse} {m0 m m' : Img} {st st' : Stage}
    (h : groupMapOk m0 ⟨u, m⟩ st = true) (hxs : m'.xs = m.xs) (hys : m'.ys = m.ys) (hst : nestedStage st' = true) :
    groupMapOk m0 ⟨u, m'⟩ st' = true := by
  cases u <;> cases st' <;> simp_all [groupMapOk, nestedStage]

/-- The image being decoded changes to `m'`, of its size, and stands well formed at a position of its level: level 0
with its phase, a nested image with the job's. -/
theorem positionOk_of_update {m' : Img} (hs : positionOk s = true) (hm : curImg s = some m)
    (hxsize : t.xsize = s.xsize) (hhdr : t.hdr = s.hdr)
    (h0 : t.img0 = (setCurImg m' s).img0) (hn : t.nested = (setCurImg m' s).nested)
    (hshape : m'.xs = m.xs ∧ m'.ys = m.ys ∧ m'.level0 = m.level0) (hok : imgOk m' = true)
    (hst : stageOk m' t.stage = true) (hlevel0 : m.level0 = true → level0Phase t.stage = some t.phase)
    (hnested : m.level0 = false → t.phase = s.phase ∧ nestedStage t.stage = true ∧ (m.ngroups = 1 → m'.ngroups = 1)) :
    positionOk t = true := by
  obtain ⟨hxs, hys, hl'⟩ := hshape
  obtain ⟨-, -, ⟨hl, hsn, hs0, hsl, -⟩ | ⟨hl, hg, u, hsn, hplace⟩⟩ := positionOk_curImg hs hm
  · rw [setCurImg_img0, hsn] at h0
    rw [setCurImg_nested, hsn] at hn
    refine (positionOk_level0_iff hn h0).2 ⟨?_, hst, hlevel0 hl⟩
    simp only [level0Ok, Bool.and_eq_true, beq_iff_eq] at hsl ⊢
    obtain ⟨⟨⟨-, hsx⟩, hsy⟩, -⟩ := hsl
    exact ⟨⟨⟨hl'.trans hl, by rw [hxs, hsx, hxsize]⟩, by rw [hys, hsy, hhdr]⟩, hok⟩
  · obtain ⟨hph, hstage, hgroups⟩ := hnested hl
    rw [setCurImg_img0, hsn] at h0
    rw [setCurImg_nested, hsn] at hn
    refine (positionOk_nested_iff hn).2 ⟨by simp [nestedOk, hl', hl, hgroups hg, hok, hst], ?_⟩
    obtain ⟨hxf, hi0, huse⟩ | ⟨hmeta, m0, hi0, hl0, hst0, hmap⟩ := hplace
    · exact .inl ⟨hph.trans hxf, h0.trans hi0, useOk_of_nestedStage huse hstage⟩
    · refine .inr ⟨hph.trans hmeta, m0, h0.trans hi0, ?_, hst0, groupMapOk_of_nestedStage hmap hxs hys hstage⟩
      simpa [level0Ok, hxsize, hhdr] using hl0

end

end Sys2Proof.Machine
end

section
/-! PROOFS, family 10_state: every step keeps the control invariant (O50) and the coded width (O53). -/

namespace Sys2Proof.Machine

/-! ## The transform list -/

/-- XF.SEEN after a type is read: that type and those read before (R143). -/
theorem wasSeen_markSeen (seen : BitVec 4) (k j : XKind) :
    wasSeen (markSeen seen k) j = (wasSeen seen j || decide (j = k)) := by
  have hbit : (BitVec.ofNat 4 (2 ^ k.number)).getLsbD j.number = decide (j = k) := by cases k <;> cases j <;> decide
  rw [wasSeen, markSeen, BitVec.getLsbD_or, hbit, wasSeen]

section
variable {s t : State}

theorem transformsOk_of_same (h : transformsOk s = true) (hk : kindsRead t = kindsRead s) (hseen : t.seen = s.seen) :
    transformsOk t = true := by
  simpa only [transformsOk, hk, hseen] using h

/-- A type not seen before is read (R143, R144). -/
theorem transformsOk_mark {k : XKind} (h : transformsOk s = true) (hseen : wasSeen s.seen k = false)
    (hk : kindsRead t = kindsRead s ++ [k]) (ht : t.seen = markSeen s.seen k) : transformsOk t = true := by
  simp only [transformsOk, hk, ht, Bool.and_eq_true, List.all_eq_true, decide_eq_true_eq] at h ⊢
  obtain ⟨hall, hnodup⟩ := h
  refine ⟨fun j hj => ?_, ?_⟩
  · rw [wasSeen_markSeen]
    rcases List.mem_append.1 hj with hj | hj
    · simp [hall j hj]
    · simp [List.mem_singleton.1 hj]
  · refine List.nodup_append'.2 ⟨hnodup, List.nodup_singleton k, List.disjoint_singleton.2 fun hmem => ?_⟩
    simp [hall k hmem] at hseen

@[simp] theorem pendingKind_none : pendingKind none = [] := rfl

/-- What a nested image is decoded for does not depend on the image. -/
@[simp] theorem pendingKind_map (o : Option Nested) (m : Img) :
    pendingKind (o.map fun n => { n with img := m }) = pendingKind o := by
  rcases o with _ | ⟨u, mi⟩
  · rfl
  · cases u <;> rfl

/-! ## The reserved bits -/

theorem registersOk_iff (s : State) :
    registersOk s = true ↔ s.expect.extractLsb' 28 3 = 0 ∧ s.info.extractLsb' 29 3 = 0 := by
  simp [registersOk]

/-- The INFO word of a header of version 0 has no bit above the alpha hint's (R25, R141). -/
theorem infoWord_version {hd : Hdr} (hw : hd.w - 1 < 2 ^ 14) (hh : hd.h - 1 < 2 ^ 14) (hv : hd.ver = 0) :
    (infoWord hd).extractLsb' 29 3 = 0 := by
  have hh' : (hd.h - 1) <<< 14 < 2 ^ 29 := by rw [Nat.shiftLeft_eq]; omega
  have ha' : hd.alpha.toNat <<< 28 < 2 ^ 29 := by rw [Nat.shiftLeft_eq]; omega
  have hlt : ((hd.w - 1) ||| ((hd.h - 1) <<< 14) ||| (hd.alpha.toNat <<< 28)) < 2 ^ 29 :=
    Nat.or_lt_two_pow (Nat.or_lt_two_pow (by omega) hh') ha'
  have hv' : hd.ver.toNat = 0 := by rw [hv]; rfl
  apply BitVec.eq_of_toNat_eq
  simp only [infoWord, hv', Nat.zero_shiftLeft, Nat.or_zero, BitVec.extractLsb'_toNat,
    BitVec.toNat_ofNat, Nat.shiftRight_eq_div_pow, Nat.mod_eq_of_lt (hlt.trans (by decide : 2 ^ 29 < 2 ^ 32)),
    Nat.div_eq_of_lt hlt]
  rfl

/-! ## The invariant from one state to the next -/

/-- Nothing `Inv` says of a running job differs but what is issued and in emission. -/
structure SameJob (s t : State) : Prop where
  inMem : t.inMem = s.inMem
  status : t.status = s.status
  expect : t.expect = s.expect
  info : t.info = s.info
  phase : t.phase = s.phase
  stage : t.stage = s.stage
  hdr : t.hdr = s.hdr
  xsize : t.xsize = s.xsize
  seen : t.seen = s.seen
  xfs : t.xfs = s.xfs
  img0 : t.img0 = s.img0
  nested : t.nested = s.nested

/-- What the emission of rows and the operations write is not what `Inv` speaks of. -/
theorem SameJob.of_updates {ops : List Instr} {emit : Emit} {rows p : Nat} {work : WorkImg} {res : Result}
    {sink : Sink} : SameJob s { s with
      ops := ops, emit := emit, rowsEmitted := rows, pos := p, work := work, res := res, sink := sink } :=
  ⟨rfl, rfl, rfl, rfl, rfl, rfl, rfl, rfl, rfl, rfl, rfl, rfl⟩

theorem positionOk_of_sameJob (h : SameJob s t) (hst : s.stage ≠ .idle) (hpos : positionOk s = true) :
    positionOk t = true := by
  have hrun := (phase_of_stage hpos hst).1
  have hlevel0 : ∀ m, level0Ok t m = level0Ok s m := fun m => by simp only [level0Ok, h.xsize, h.hdr]
  revert hpos hrun
  simp only [positionOk, hlevel0, h.phase, h.stage, h.seen, h.xfs, h.img0, h.nested]
  cases s.phase <;> cases s.img0 <;> cases s.nested <;> simp [Phase.running]

theorem Inv.of_sameJob (hs : Inv s) (h : SameJob s t) (hst : s.stage ≠ .idle) (hops : t.ops.all isIssued = true) :
    Inv t := by
  obtain ⟨hmem, hstatus, hreg, hpos, htr, -⟩ := hs
  exact ⟨by rwa [h.inMem], by simpa only [statusOk, h.phase, h.status] using hstatus,
    by simpa only [registersOk, h.expect, h.info] using hreg, positionOk_of_sameJob h hst hpos,
    transformsOk_of_same htr (by simp only [kindsRead, h.xfs, h.nested]) h.seen, hops⟩

/-- STATUS stays while the job goes on from one position to another (R24). -/
theorem statusOk_goes_on (h : statusOk s = true) (hs : positionOk s = true) (ht : positionOk t = true)
    (hst : s.stage ≠ .idle) (hst' : t.stage ≠ .idle) (hsame : t.status = s.status) : statusOk t = true := by
  have hrun := (phase_of_stage hs hst).1
  refine (statusOk_iff t).2 (.inr (.inr (.inr ⟨(phase_of_stage ht hst').1, ?_⟩)))
  obtain ⟨hp, -⟩ | ⟨hp, -⟩ | ⟨hp, -⟩ | ⟨-, hbusy⟩ := (statusOk_iff s).1 h
  · simp [hp, Phase.running] at hrun
  · simp [hp, Phase.running] at hrun
  · simp [hp, Phase.running] at hrun
  · rw [hsame, hbusy]

/-- The end of a job, by a failure or by success, leaves nothing of it (R348). -/
theorem Inv.abortState (k : Failure) (hs : Inv s) : Inv (abortState k s) := by
  obtain ⟨hmem, -, hreg, -⟩ := hs
  exact ⟨hmem, (statusOk_iff _).2 (.inr (.inr (.inl ⟨rfl, k, rfl⟩))), hreg, rfl, rfl, rfl⟩

theorem Inv.finishJob (hs : Inv s) : Inv (finishJob s) := by
  obtain ⟨hmem, -, hreg, -⟩ := hs
  exact ⟨hmem, rfl, hreg, rfl, rfl, rfl⟩

theorem Inv.startJob (hs : Inv s) : Inv (startJob s) := by
  obtain ⟨hmem, -, hreg, -⟩ := hs
  exact ⟨hmem, rfl, (registersOk_iff _).2 ⟨((registersOk_iff s).1 hreg).1, by simp⟩, rfl, rfl, rfl⟩

theorem Inv.hardReset (hs : Inv s) : Inv (hardReset s) := 
  ⟨hs.1, rfl, (registersOk_iff _).2 ⟨by simp [State.reset], by simp [State.reset]⟩, rfl, rfl, rfl⟩

theorem Inv.writeReg (r : Reg) (v : Word) (hs : Inv s) : Inv (writeReg r v s) := by
  cases r with
  | inLen => unfold Machine.writeReg; dsimp only; split_ifs <;> exact hs
  | expect =>
    unfold Machine.writeReg; dsimp only; split_ifs
    · exact hs
    · obtain ⟨hmem, hstatus, hreg, hrest⟩ := hs
      obtain ⟨-, hinfo⟩ := (registersOk_iff s).1 hreg
      obtain ⟨-, hzero, -⟩ := expectMask_fields v
      exact ⟨hmem, hstatus, (registersOk_iff _).2 ⟨hzero, hinfo⟩, hrest⟩
  | _ => exact hs

theorem Inv.writeIn (a : BitVec 32) (b : Byte) (hs : Inv s) : Inv (writeIn a b s) := by
  obtain ⟨hmem, hrest⟩ := hs
  unfold Machine.writeIn
  dsimp only
  split_ifs <;> exact ⟨Memory.write_wf hmem, hrest⟩

/-- An operation the sequencer issued leaves the job as it is (R311, R316, R260, R288). -/
theorem Inv.operation {i : Instr} {rest : List Instr} (hs : Inv s) (hops : s.ops = i :: rest)
    (hx : exec i { s with ops := rest } = .next t) : Inv t := by
  have hkeep := Inv.of_sameJob (t := t) hs
  obtain ⟨-, -, -, hpos, -, hissued⟩ := hs
  have hst : s.stage ≠ .idle := fun hidle => by simp [(positionOk_idle hpos hidle).1] at hops
  rw [hops, List.all_cons, Bool.and_eq_true] at hissued
  obtain ⟨hi, hrest⟩ := hissued
  cases exec_operation (isOperation_of_isIssued hi) hx with
  | returns | inverts | callsSink =>
    exact hkeep .of_updates hst hrest
  | inserts v m hins => subst hins; simp [isIssued] at hi

end

section
variable {i : Instr} {s t : State} {m m' : Img}

/-! ## The position after each kind of move -/

theorem level0Ok_iff : level0Ok s m = true ↔ m.level0 = true ∧ m.xs = s.xsize ∧ m.ys = s.hdr.h ∧ imgOk m = true := by
  simp [level0Ok, and_assoc]

/-- PHASE is that of level 0's position when level 0 is being decoded (R140). -/
theorem level0Phase_of_curImg (h : positionOk s = true) (hm : curImg s = some m) (hl : m.level0 = true) :
    level0Phase s.stage = some s.phase := by
  obtain ⟨-, -, ⟨-, -, -, -, hph⟩ | ⟨hl', -⟩⟩ := positionOk_curImg h hm
  · exact hph
  · simp [hl] at hl'

/-- The image being decoded, set again, changes nothing. -/
theorem setCurImg_of_curImg (h : curImg s = some m) : setCurImg m s = s := by
  obtain ⟨⟩ := s
  unfold setCurImg curImg at *
  dsimp only at *
  split at h
  · cases h; rfl
  · subst h; rfl

theorem readsCode_ne_idle {st : Stage} (h : readsCode st = true) : st ≠ .idle := by rintro rfl; cases h

/-- While a code is read the image has a code to come and no pixel (R82, R156). -/
theorem stageOk_readsCode {st : Stage} (hst : readsCode st = true) (h : stageOk m st = true) :
    m.codes.length < 5 * m.ngroups ∧ m.pix = [] := by
  cases st <;> simp_all [readsCode, stageOk]

/-- Writing pixels leaves the image's shape, its groups and its codes (R222). -/
theorem foldl_emit_shape (vs : List Word) (m : Img) :
    (vs.foldl Img.emit m).xs = m.xs ∧ (vs.foldl Img.emit m).ys = m.ys ∧ (vs.foldl Img.emit m).level0 = m.level0 ∧
    (vs.foldl Img.emit m).ngroups = m.ngroups ∧ (vs.foldl Img.emit m).codes = m.codes := by
  rw [foldl_emit_eq]
  exact ⟨rfl, rfl, rfl, rfl, rfl⟩

theorem nestedOk_freshImg (u : SubUse) (xs ys : Nat) : nestedOk ⟨u, freshImg xs ys false⟩ .ccache = true := by
  rw [nestedOk, imgOk_freshImg]
  rfl

/-- A use that names a transform type may begin a sub-image. -/
theorem useOk_ccache {u : SubUse} {k : XKind} (h : pendingKind (some ⟨u, m⟩) = [k]) : useOk u .ccache = true := by
  cases u with
  | groupMap => cases h
  | _ => rfl

/-- The transform list goes on with no image being decoded (R140). -/
theorem positionOk_atXform (hph : t.phase = .xform) (hst : t.stage = .xform) (hn : t.nested = none)
    (h0 : t.img0 = none) : positionOk t = true := (positionOk_noImage_iff hn h0).2 (.inr (.inr ⟨hph, hst⟩))

/-- A transform's sub-image begins (R145, R146, R148). -/
theorem positionOk_subImage {u : SubUse} {xs ys : Nat} (hph : t.phase = .xform) (h0 : t.img0 = none)
    (hn : t.nested = some ⟨u, freshImg xs ys false⟩) (hst : t.stage = .ccache) (hu : useOk u .ccache = true) :
    positionOk t = true :=
  (positionOk_nested_iff hn).2 (hst ▸ ⟨nestedOk_freshImg u xs ys, .inl ⟨hph, h0, hst ▸ hu⟩⟩)

/-- The image gets its cache and goes on at its level (R140, R151 to R153). -/
theorem positionOk_afterCache {cc : CCache} (h : positionOk s = true) (hst : s.stage = .ccache)
    (hm : curImg s = some m) (hbits : cc.bits ≤ 11) (harr : cc.arr = List.replicate (cacheSize cc.bits) 0) :
    positionOk (afterCache { m with cc := cc } s) = true := by
  obtain ⟨hok, hstage, -⟩ := positionOk_curImg h hm
  simp only [hst, stageOk, Bool.and_eq_true, List.isEmpty_iff] at hstage
  obtain ⟨hcodes, hpix⟩ := hstage
  have hcache : imgOk { m with cc := cc } = true := imgOk_withCache hok hcodes hbits harr
  unfold afterCache
  split_ifs with hl
  · exact positionOk_of_update h hm (by simp) (by simp) rfl rfl ⟨rfl, rfl, rfl⟩ hcache
      (by simp [stageOk, hcodes, hpix]) (fun _ => rfl) (fun hl' => absurd hl (by simp [hl']))
  · exact positionOk_of_update h hm (by simp) (by simp) rfl rfl ⟨rfl, rfl, rfl⟩ (imgOk_withoutMap hcache hcodes)
      (by simp [stageOk, hcodes, hpix]) (fun hl' => absurd hl' hl) (fun _ => ⟨by simp, rfl, fun _ => rfl⟩)

/-- The groups of level 0 are known and its codes are read next (R140, R156). -/
theorem positionOk_beginCodes (h : level0Ok s m = true) (hxs : m'.xs = m.xs) (hys : m'.ys = m.ys)
    (hl : m'.level0 = m.level0) (hok : imgOk m' = true) (hcodes : m'.codes = []) (hpix : m'.pix = []) :
    positionOk (beginCodes m' s) = true := by
  obtain ⟨hl0, hx, hy, -⟩ := level0Ok_iff.1 h
  obtain ⟨-, -, hgroups, -⟩ := (imgOk_iff m').1 hok
  refine (positionOk_level0_iff rfl rfl).2
    ⟨level0Ok_iff.2 ⟨hl.trans hl0, hxs.trans hx, hys.trans hy, hok⟩, ?_, rfl⟩
  simp [stageOk, hcodes, hpix]
  omega

/-- A complete code joins the image; after the last one the pixels follow (R140, R156). -/
theorem positionOk_pushCode {L : Code} (h : positionOk s = true) (hm : curImg s = some m)
    (hst : readsCode s.stage = true) (hL : validCode L = true)
    (hlen : stageOk m s.stage = true → L.length = nextAlphabet m) : positionOk (pushCode L m s) = true := by
  obtain ⟨hok, hstage, -⟩ := positionOk_curImg h hm
  obtain ⟨hroom, hpix⟩ := stageOk_readsCode hst hstage
  have hcode := imgOk_withCode hok hroom hL (hlen hstage)
  have hphase : m.level0 = true → s.phase = .codes := fun hl => by
    have hph := level0Phase_of_curImg h hm hl
    rw [level0Phase_of_readsCode hst] at hph
    exact (Option.some.inj hph).symm
  rw [pushCode_eq]
  cases hlast : lastOfCodes m with
  | true =>
    simp only [lastOfCodes, decide_eq_true_eq] at hlast
    refine positionOk_of_update h hm (by simp) (by simp) rfl rfl ⟨rfl, rfl, rfl⟩ hcode ?_ ?_ ?_
    · simp [stageOk]; omega
    · intro hl; simp [hl, level0Phase]
    · intro hl; simp [hl, nestedStage]
  | false =>
    simp only [lastOfCodes, decide_eq_false_iff_not, not_le] at hlast
    refine positionOk_of_update h hm (by simp) (by simp) rfl rfl ⟨rfl, rfl, rfl⟩ hcode ?_ ?_ ?_
    · simpa [stageOk, hpix] using hlast
    · intro hl; simp [level0Phase, hphase hl]
    · intro hl; simp [nestedStage]

/-- Pixels are written up to the image's size (R220, R222). -/
theorem positionOk_pixels {vs : List Word} {r : Nat} (h : positionOk s = true) (hst : s.stage = .pixel)
    (hm : curImg s = some m) (hroom : m.pix.length + vs.length ≤ m.size) :
    positionOk { setCurImg (vs.foldl Img.emit m) s with rowsDone := r } = true := by
  obtain ⟨hok, hstage, -⟩ := positionOk_curImg h hm
  obtain ⟨hxs, hys, hl, hgroups, hcodes⟩ := foldl_emit_shape vs m
  rw [hst] at hstage
  refine positionOk_of_update h hm (by simp) (by simp) rfl rfl ⟨hxs, hys, hl⟩ (imgOk_emit hok hroom) ?_ ?_ ?_
  · simpa [hst, stageOk, hgroups, hcodes] using hstage
  · simpa using level0Phase_of_curImg h hm
  · intro _; simp [hst, nestedStage, hgroups]

/-- A nested image that names a transform type is decoded before level 0 begins (R140). -/
theorem phase_of_pendingKind {n : Nested} (h : positionOk s = true) (hn : s.nested = some n)
    (hk : pendingKind (some n) ≠ []) : s.phase = .xform ∧ s.img0 = none := by
  obtain ⟨-, ⟨hph, h0, -⟩ | ⟨-, m, -, -, -, hmap⟩⟩ := (positionOk_nested_iff hn).1 h
  · exact ⟨hph, h0⟩
  · obtain ⟨u, mi⟩ := n
    cases u with
    | groupMap => exact absurd rfl hk
    | _ => cases hmap

/-! ## Elements keep the invariant -/

theorem ElementDoes.keeps_position (h : ElementDoes i s t) (hpos : positionOk s = true) : positionOk t = true := by
  cases h with
  | fails => rfl
  | header hd hi hst =>
    obtain ⟨hn, h0, -⟩ := positionOk_header hpos hst
    exact positionOk_atXform rfl rfl hn h0
  | xformEnd hi hst =>
    obtain ⟨hn, -, -⟩ := positionOk_xform hpos hst
    exact (positionOk_level0_iff (by exact hn) rfl).2 ⟨level0Ok_iff.2 ⟨rfl, rfl, rfl, imgOk_freshImg _ _ _⟩, rfl, rfl⟩
  | subImage k u xs ys n hi hst hseen hu =>
    obtain ⟨-, h0, hph⟩ := positionOk_xform hpos hst
    exact positionOk_subImage hph h0 rfl rfl (useOk_ccache hu)
  | subtractGreen hi hst =>
    obtain ⟨hn, h0, hph⟩ := positionOk_xform hpos hst
    exact positionOk_atXform hph hst hn h0
  | cache m cc n hst hm hbits harr => exact positionOk_afterCache (s := advance n s) hpos hst hm hbits harr
  | noMeta m hi hst hm =>
    obtain ⟨-, hl, hok, -⟩ := positionOk_metaBit hpos hst hm
    obtain ⟨-, -, -, himg⟩ := level0Ok_iff.1 hl
    simp only [stageOk, Bool.and_eq_true, List.isEmpty_iff] at hok
    exact positionOk_beginCodes (s := advance 1 s) hl rfl rfl rfl (imgOk_withoutMap himg hok.1) hok.1 hok.2
  | metaImage m mb hst hm hmb =>
    obtain ⟨-, hl, hok, hph⟩ := positionOk_metaBit hpos hst hm
    refine (positionOk_nested_iff rfl).2 ⟨nestedOk_freshImg _ _ _, .inr ⟨hph, m, hm, hl, hok, ?_⟩⟩
    simp [groupMapOk, hmb, freshImg]
  | codeGoesOn m st n hm hst hst' hstOk =>
    obtain ⟨hok, hstage, -⟩ := positionOk_curImg hpos hm
    have hset := setCurImg_of_curImg hm
    refine positionOk_of_update (m' := m) hpos hm rfl rfl (by rw [hset]; rfl) (by rw [hset]; rfl) ⟨rfl, rfl, rfl⟩ hok
      (hstOk hstage) (fun hl => ?_) (fun _ => ⟨rfl, nestedStage_of_readsCode hst', id⟩)
    have hph := level0Phase_of_curImg hpos hm hl
    rwa [level0Phase_of_readsCode hst, ← level0Phase_of_readsCode hst'] at hph
  | codeEnds m L n hm hst hL hlen => exact positionOk_pushCode (s := advance n s) hpos hm hst hL hlen
  | pixels m vs n hi hst hm hroom => exact positionOk_pixels (s := advance n s) hpos hst hm hroom

theorem ElementDoes.keeps_transforms (h : ElementDoes i s t) (hpos : positionOk s = true)
    (htr : transformsOk s = true) : transformsOk t = true := by
  cases h with
  | fails => rfl
  | header | codeGoesOn => exact htr
  | xformEnd => exact htr
  | subImage k u xs ys n hi hst hseen hu =>
    obtain ⟨hn, -, -⟩ := positionOk_xform hpos hst
    exact transformsOk_mark htr hseen (by simp [kindsRead, hn, hu]) rfl
  | subtractGreen hi hst hseen =>
    obtain ⟨hn, -, -⟩ := positionOk_xform hpos hst
    exact transformsOk_mark htr hseen (by simp [kindsRead, hn]) rfl
  | cache | codeEnds | pixels =>
    exact transformsOk_of_same htr (by simp [afterCache_eq, pushCode_eq, kindsRead])
      (by simp [afterCache_eq, pushCode_eq])
  | noMeta m hi hst hm | metaImage m mb hst hm =>
    obtain ⟨hn, -⟩ := positionOk_metaBit hpos hst hm
    exact transformsOk_of_same htr (by simp [kindsRead, hn, pendingKind]) rfl

/-- SINK_ALLOC is the only operation an element issues (R311). -/
theorem ElementDoes.keeps_issued (h : ElementDoes i s t) (hops : s.ops.all isIssued = true) :
    t.ops.all isIssued = true := by
  cases h with
  | fails => rfl
  | codeEnds => rw [pushCode_eq]; dsimp only; split_ifs <;> simpa [isIssued] using hops
  | cache | pixels => simpa [afterCache_eq] using hops
  | _ => exact hops

theorem ElementDoes.keeps_reserved (h : ElementDoes i s t) (hreg : registersOk s = true) : registersOk t = true := by
  cases h with
  | header hd hi hst hw hh hv => exact (registersOk_iff _).2 ⟨((registersOk_iff s).1 hreg).1, infoWord_version hw hh hv⟩
  | cache | codeEnds | pixels => simpa [registersOk, afterCache_eq, pushCode_eq] using hreg
  | _ => exact hreg

/-- An element fails the job or moves it from one grammar position to another. -/
theorem ElementDoes.fails_or_goes_on (h : ElementDoes i s t) :
    (∃ k, t.phase = .error ∧ t.status = statusFailed k) ∨
      (s.stage ≠ .idle ∧ t.stage ≠ .idle ∧ t.status = s.status) := by
  cases h with
  | fails k => exact .inl ⟨k, rfl, rfl⟩
  | cache m cc n hst => rw [afterCache_eq]; dsimp only; split_ifs <;> simp [hst]
  | codeEnds m L n hm hst => rw [pushCode_eq]; dsimp only; split_ifs <;> simp [readsCode_ne_idle hst]
  | codeGoesOn m st n hm hst hst' => exact .inr ⟨readsCode_ne_idle hst, readsCode_ne_idle hst', rfl⟩
  | _ => simp [*]

/-- Every stream element keeps the invariant. -/
theorem ElementDoes.keeps_inv (h : ElementDoes i s t) (hs : Inv s) : Inv t := by
  obtain ⟨hmem, hstatus, hreg, hpos, htr, hops⟩ := hs
  obtain ⟨hmem', -⟩ := h.keeps_input
  have hpos' := h.keeps_position hpos
  refine ⟨hmem' ▸ hmem, ?_, h.keeps_reserved hreg, hpos', h.keeps_transforms hpos htr, h.keeps_issued hops⟩
  obtain ⟨k, hph, hfail⟩ | ⟨hst, hst', hsame⟩ := h.fails_or_goes_on
  · exact (statusOk_iff t).2 (.inr (.inr (.inl ⟨hph, k, hfail⟩)))
  · exact statusOk_goes_on hstatus hpos hpos' hst hst' hsame

/-! ## Turns keep the invariant -/

/-- The SINK_SETs of a batch are operations the sequencer issues (R313). -/
theorem rowSets_issued (w y0 y1 : Nat) (pix : List Word) : (rowSets w y0 y1 pix).all isIssued = true := by
  simp [rowSets, isIssued]

/-- So are the inverse transforms (R260). -/
theorem inverseOps_issued (xfs : List Xform) : (inverseOps xfs).all isIssued = true := by
  rw [inverseOps, List.all_map, List.all_reverse, List.all_eq_true]
  rintro ⟨k, -, -, -⟩ -
  cases k <;> rfl

/-- A complete image has as many pixels as its size (R39, R220). -/
theorem length_pix_of_full (hok : imgOk m = true) (hfull : m.size ≤ m.pos) : m.pix.length = m.size := by
  obtain ⟨-, -, -, -, -, -, hle⟩ := (imgOk_iff m).1 hok
  exact le_antisymm hle hfull

/-- A turn that moves the job from one grammar position to another. -/
theorem Inv.goesOn (hs : Inv s) (hst : s.stage ≠ .idle) (hst' : t.stage ≠ .idle) (hmem : t.inMem = s.inMem)
    (hsame : t.status = s.status) (hexp : t.expect = s.expect) (hinfo : t.info = s.info) (hpos : positionOk t = true)
    (htr : transformsOk t = true) (hops : t.ops.all isIssued = true) : Inv t := by
  obtain ⟨hwf, hstatus, hreg, hspos, -, -⟩ := hs
  exact ⟨by rwa [hmem], statusOk_goes_on hstatus hspos hpos hst hst' hsame,
    by simpa only [registersOk, hexp, hinfo] using hreg, hpos, htr, hops⟩

theorem TurnDoes.keeps_issued (h : TurnDoes s t) (hops : s.ops.all isIssued = true) : t.ops.all isIssued = true := by
  cases h with
  | setsIssued => simp only [List.all_append, hops, rowSets_issued, Bool.and_self]
  | batchDue | lastBatch => simp only [beginBatch_ops, List.all_append, hops, inverseOps_issued, Bool.and_self]
  | paletteIssued => simp only [List.all_append, hops, Bool.true_and]; rfl
  | endCheckFails | jobEnds => rfl
  | _ => exact hops

/-- Every turn of the control flow keeps the invariant. -/
theorem TurnDoes.keeps_inv (h : TurnDoes s t) (hs : Inv s) : Inv t := by
  have hs' := hs
  obtain ⟨-, -, -, hpos, htr, hops⟩ := hs
  have hops' := h.keeps_issued hops
  have hemit : s.emit ≠ .off → s.stage ≠ .idle := fun he hst => he (positionOk_idle hpos hst).2
  cases h with
  | setsIssued y0 y1 he => exact Inv.of_sameJob hs' .of_updates (hemit (by simp [he])) hops'
  | batchOut y1 he => exact Inv.of_sameJob hs' .of_updates (hemit (by simp [he])) hops'
  | batchDue m he hst | lastBatch m he hst => exact Inv.of_sameJob hs' .of_updates (by simp [hst]) hops'
  | endCheckFails => exact Inv.abortState _ hs'
  | jobEnds => exact Inv.finishJob hs'
  | tilesEnd n k bits he hst hn hfull hk =>
    obtain ⟨hph, h0⟩ := phase_of_pendingKind hpos hn (by simp [hk])
    exact Inv.goesOn hs' (by simp [hst]) nofun rfl rfl rfl rfl (positionOk_atXform hph rfl rfl h0)
      (transformsOk_of_same htr (by simp [kindsRead, hn, hk]) rfl) hops'
  | paletteEnds wb m he hst hn =>
    obtain ⟨hph, h0⟩ := phase_of_pendingKind hpos hn nofun
    exact Inv.goesOn hs' (by simp [hst]) nofun rfl rfl rfl rfl (positionOk_atXform hph rfl rfl h0)
      (transformsOk_of_same htr (by simp [kindsRead, hn, pendingKind]) rfl) hops'
  | paletteIssued wb m he hst hn hfull =>
    obtain ⟨hph, h0⟩ := phase_of_pendingKind hpos hn nofun
    obtain ⟨hok, -⟩ := (positionOk_nested_iff hn).1 hpos
    refine Inv.goesOn hs' (by simp [hst]) nofun rfl rfl rfl rfl ?_ htr hops'
    refine (positionOk_nested_iff (by exact hn)).2 ⟨?_, .inl ⟨hph, h0, rfl⟩⟩
    simp only [nestedOk, hst, stageOk, Bool.and_eq_true, beq_iff_eq] at hok ⊢
    obtain ⟨⟨hshape, himg⟩, hcodes⟩ := hok
    exact ⟨⟨hshape, himg⟩, hcodes, length_pix_of_full himg hfull⟩
  | metaEnds mb mi m he hst hn hfull hm =>
    obtain ⟨hnest, ⟨-, h0, -⟩ | ⟨-, m0, h0, hl, hstage, hmap⟩⟩ := (positionOk_nested_iff hn).1 hpos
    · simp [hm] at h0
    · obtain rfl : m = m0 := Option.some.inj (hm.symm.trans h0)
      obtain ⟨himg, -⟩ := positionOk_curImg (m := mi) hpos (by simp [curImg, hn])
      obtain ⟨hl0, -, -, hok⟩ := level0Ok_iff.1 hl
      simp only [stageOk, Bool.and_eq_true, List.isEmpty_iff] at hstage
      simp only [groupMapOk, Bool.and_eq_true, beq_iff_eq] at hmap
      obtain ⟨⟨⟨⟨⟨-, hxs⟩, hys⟩, -⟩, -⟩, -⟩ := hmap
      exact Inv.goesOn hs' (by simp [hst]) nofun rfl rfl rfl rfl
        (positionOk_beginCodes hl rfl rfl rfl
          (imgOk_withMap hok hl0 hstage.1 hxs hys (length_pix_of_full himg hfull)) hstage.1 hstage.2)
        (transformsOk_of_same htr (by simp [kindsRead, hn, pendingKind]) rfl) hops'
  | level0Ends m he hst hn hm hfull =>
    obtain ⟨hl, hok, -⟩ := (positionOk_level0_iff hn hm).1 hpos
    obtain ⟨-, -, -, himg⟩ := level0Ok_iff.1 hl
    rw [hst] at hok
    simp only [stageOk, beq_iff_eq] at hok
    refine Inv.goesOn hs' (by simp [hst]) nofun rfl rfl rfl rfl ?_ htr hops'
    refine (positionOk_level0_iff (by exact hn) (by exact hm)).2 ⟨hl, ?_, rfl⟩
    simp [stageOk, hok, length_pix_of_full himg hfull]

end

/-! ## The invariant, and the coded width -/

/-- Each kind of move keeps the control invariant. -/
theorem inv_keptByMoves : KeptByMoves Inv where
  host _ hs := hs
  start hs _ := Inv.startJob hs
  reset := Inv.hardReset
  writeReg r v hs := Inv.writeReg r v hs
  writeIn a b hs := Inv.writeIn a b hs
  operation hs hops hx := Inv.operation hs hops hx
  element hs _ _ h := h.keeps_inv hs
  turn hs _ h := h.keeps_inv hs

/-- Settles O50: each kind of move keeps the invariant, so every step does. -/
theorem stepKeepsInv : Obligations.StepKeepsInv := fun _ _ hs h => inv_keptByMoves.step hs h

/-- The header has been read: XSIZE is the coded width (R34). -/
def pastHeader (s : State) : Prop := s.phase.running = true ∧ s.phase ≠ .header

section
variable {i : Instr} {s t : State}

theorem widthsOk_iff (s : State) :
    widthsOk s = true ↔ (pastHeader s → widthAfter s.hdr.w s.xfs = some s.xsize) := by
  unfold widthsOk pastHeader
  cases s.phase <;> simp [Phase.running]

/-- A record read at the coded width changes it as its kind says (R34, R261). -/
theorem widthAfter_append {w w' : Nat} {xfs : List Xform} {r : Xform} (h : widthAfter w xfs = some w')
    (hr : r.xsize = w') :
    widthAfter w (xfs ++ [r]) = some (if r.kind = .colourIndexing then subSize w' r.bits else w') := by
  induction xfs generalizing w with
  | nil =>
    obtain rfl : w = w' := Option.some.inj h
    simp [widthAfter, hr]
  | cons x xs ih =>
    simp only [List.cons_append, widthAfter] at h ⊢
    by_cases hx : x.xsize = w
    · rw [if_pos hx] at h ⊢
      exact ih h
    · simp [hx] at h

theorem pastHeader_of_stage (h : positionOk s = true) (hst : s.stage ≠ .idle) (hne : s.stage ≠ .header) :
    pastHeader s := (phase_of_stage h hst).imp_right fun hph => hph hne

/-- The coded width is settled by the header and the records alone. -/
theorem widthsOk_of_same (h : widthsOk s = true) (hpast : pastHeader t → pastHeader s) (hhdr : t.hdr = s.hdr)
    (hxfs : t.xfs = s.xfs) (hx : t.xsize = s.xsize) : widthsOk t = true := by
  rw [widthsOk_iff] at h ⊢
  rw [hhdr, hxfs, hx]
  exact fun ht => h (hpast ht)

/-- A record joins the list and the coded width follows it (R261). -/
theorem widthsOk_pushXform {r : Xform} (h : widthsOk s = true) (hs : pastHeader s) (hr : r.xsize = s.xsize)
    (hhdr : t.hdr = s.hdr) (hxfs : t.xfs = s.xfs ++ [r])
    (hx : t.xsize = if r.kind = .colourIndexing then subSize s.xsize r.bits else s.xsize) : widthsOk t = true := by
  rw [widthsOk_iff, hhdr, hxfs, hx]
  exact fun _ => widthAfter_append ((widthsOk_iff s).1 h hs) hr

/-- HDR sets the coded width, a subtract-green record keeps it, and no other element names it. -/
theorem ElementDoes.keeps_widths (h : ElementDoes i s t) (hpos : positionOk s = true) (hw : widthsOk s = true) :
    widthsOk t = true := by
  have hpast : s.stage ≠ .idle → s.stage ≠ .header → pastHeader s := pastHeader_of_stage hpos
  cases h with
  | fails => rfl
  | header hd hi hst =>
    obtain ⟨-, -, hxfs, -⟩ := positionOk_header hpos hst
    exact (widthsOk_iff _).2 fun _ => by simp [hxfs, widthAfter]
  | subtractGreen hi hst =>
    exact widthsOk_pushXform hw (hpast (by simp [hst]) (by simp [hst])) rfl rfl rfl rfl
  | cache m cc n hst | noMeta m hi hst | metaImage m mb hst | xformEnd hi hst | subImage k u xs ys n hi hst
  | pixels m vs n hi hst =>
    exact widthsOk_of_same hw (fun _ => hpast (by simp [hst]) (by simp [hst])) (by simp [afterCache_eq])
      (by simp [afterCache_eq]) (by simp [afterCache_eq])
  | codeGoesOn m st n hm hst | codeEnds m L n hm hst =>
    have hne : s.stage ≠ .header := by rintro hhdr; simp [hhdr, readsCode] at hst
    exact widthsOk_of_same hw (fun _ => hpast (readsCode_ne_idle hst) hne) (by simp [pushCode_eq])
      (by simp [pushCode_eq]) (by simp [pushCode_eq])

/-- The end of a transform's image appends its record at the coded width (R145, R146, R148). -/
theorem TurnDoes.keeps_widths (h : TurnDoes s t) (hpos : positionOk s = true) (hw : widthsOk s = true) :
    widthsOk t = true := by
  have hpast : s.stage ≠ .idle → s.stage ≠ .header → pastHeader s := pastHeader_of_stage hpos
  cases h with
  | endCheckFails | jobEnds => rfl
  | tilesEnd n k bits he hst hn hfull hk hne =>
    exact widthsOk_pushXform hw (hpast (by simp [hst]) (by simp [hst])) rfl rfl rfl (by simp [hne])
  | paletteEnds wb m he hst =>
    exact widthsOk_pushXform hw (hpast (by simp [hst]) (by simp [hst])) rfl rfl rfl rfl
  | metaEnds mb mi m he hst | level0Ends m he hst =>
    exact widthsOk_of_same hw (fun _ => hpast (by simp [hst]) (by simp [hst])) rfl rfl rfl
  | _ => exact hw

/-- No operation the sequencer issues names the coded width. -/
theorem OperationDoes.keeps_widths (h : OperationDoes i s t) (hi : isIssued i = true) (hw : widthsOk s = true) :
    widthsOk t = true := by
  cases h with
  | inserts v m hins => subst hins; cases hi
  | _ => exact hw

theorem writeReg_keeps_widths (r : Reg) (v : Word) (hw : widthsOk s = true) : widthsOk (writeReg r v s) = true := by
  cases hb : isBusy s with
  | true => rwa [writeReg_of_busy r v hb]
  | false => cases r <;> simpa [writeReg, hb, widthsOk] using hw

theorem writeIn_keeps_widths (a : BitVec 32) (b : Byte) (hw : widthsOk s = true) :
    widthsOk (writeIn a b s) = true := by
  unfold writeIn; dsimp only; split_ifs <;> exact hw

end

/-- Each kind of move keeps the coded width, beside the invariant its position is read from. -/
theorem widthsOk_keptByMoves : KeptByMoves fun s => Inv s ∧ widthsOk s = true where
  host _ hs := hs
  start hs hidle := ⟨inv_keptByMoves.start hs.1 hidle, rfl⟩
  reset hs := ⟨inv_keptByMoves.reset hs.1, rfl⟩
  writeReg r v hs := ⟨inv_keptByMoves.writeReg r v hs.1, writeReg_keeps_widths r v hs.2⟩
  writeIn a b hs := ⟨inv_keptByMoves.writeIn a b hs.1, writeIn_keeps_widths a b hs.2⟩
  operation := by
    rintro s t i rest ⟨hs, hw⟩ hops hx
    refine ⟨inv_keptByMoves.operation hs hops hx, ?_⟩
    obtain ⟨-, -, -, -, -, hissued⟩ := hs
    simp only [hops, List.all_cons, Bool.and_eq_true] at hissued
    exact (exec_operation (isOperation_of_isIssued hissued.1) hx).keeps_widths hissued.1 hw
  element := by
    rintro s t i ⟨hs, hw⟩ hops he h
    refine ⟨inv_keptByMoves.element hs hops he h, ?_⟩
    obtain ⟨-, -, -, hpos, -⟩ := hs
    exact h.keeps_widths hpos hw
  turn := by
    rintro s t ⟨hs, hw⟩ hops h
    refine ⟨inv_keptByMoves.turn hs hops h, ?_⟩
    obtain ⟨-, -, -, hpos, -⟩ := hs
    exact h.keeps_widths hpos hw

/-- Settles O53: each kind of move keeps the width, so every step does. -/
theorem codedWidthsAgree : Obligations.CodedWidthsAgree :=
  fun _ _ hs hw h => (widthsOk_keptByMoves.step ⟨hs, hw⟩ h).2

end Sys2Proof.Machine
end

section
/-! PROOFS, family 20_memory: the bits of the stream (O7) and the host's writes of `IN` (O9). -/

namespace Sys2Proof.Machine

section
variable {s : State} {i : Nat}

/-- Inside the input, and before the host writes `IN` during the job, a stream bit is the memory's (R61). -/
theorem streamBit_inside (hfree : s.inFree = none) (hi : i < 8 * s.inLen.toNat) :
    streamBit s i = (s.inMem.read (i / 8)).getLsbD (i % 8) := by simp [streamBit, hfree, hi]

/-- Inside the input, once the host has written `IN` during the job, a stream bit is a free value (R75). -/
theorem streamBit_free {k : Nat} (hfree : s.inFree = some k) (hi : i < 8 * s.inLen.toNat) :
    streamBit s i = Config.freeStreamBit k i := by simp [streamBit, hfree, hi]

/-- Past the end of the input a stream bit is 0 (R61). -/
theorem streamBit_pastEnd (hi : ¬ i < 8 * s.inLen.toNat) : streamBit s i = false := by simp [streamBit, hi]

end

/-- Bit `j` of a byte by a shift and a mask. -/
theorem getLsbD_eq_shift_and_one (b : Byte) (j : Nat) : b.getLsbD j = decide ((b.toNat >>> j) &&& 1 = 1) := by
  rw [← BitVec.testBit_toNat, Nat.testBit_eq_decide_div_mod_eq, Nat.and_one_is_mod, Nat.shiftRight_eq_div_pow]

/-- Settles O7: byte and bit of the index by division, inside the input and past its end. -/
theorem streamBits : Obligations.StreamBits := by
  intro s i hfree
  have hbyte : i >>> 3 = i / 8 := Nat.shiftRight_eq_div_pow i 3
  have hbit : i &&& 7 = i % 8 := Nat.and_two_pow_sub_one_eq_mod i 3
  split_ifs with hi
  · rw [streamBit_inside hfree hi, getLsbD_eq_shift_and_one, hbyte, hbit]
  · exact streamBit_pastEnd hi

theorem writeIn_of_idle (a : BitVec 32) (b : Byte) {s : State} (h : isBusy s = false) :
    writeIn a b s = { s with inMem := s.inMem.write a.toNat b } := by simp [writeIn, h]

theorem writeIn_of_busy (a : BitVec 32) (b : Byte) {s : State} (h : isBusy s = true) :
    writeIn a b s =
      { s with inMem := s.inMem.write a.toNat b, inFree := some s.freeCtr, freeCtr := s.freeCtr + 1 } := by
  simp [writeIn, h]

/-- Settles O9: the memory is the old one with the byte written, and BUSY decides what else changes. -/
theorem hostWritesInput : Obligations.HostWritesInput := by
  intro s a b rest hhost hwf
  have hbusy : isBusy { s with host := rest } = isBusy s := rfl
  have hstep : step s = .next (writeIn a b { s with host := rest }) := step_host hhost
  refine ⟨s.inMem.write a.toNat b, Memory.write_wf hwf, Memory.read_write hwf a.toNat b, fun hb => ?_, fun hb => ?_⟩
  · rw [hstep, writeIn_of_idle a b (hbusy.trans hb)]
  · exact ⟨_, hstep, writeIn_of_busy a b (hbusy.trans hb), fun i hi =>
      writeIn_of_busy a b (hbusy.trans hb) ▸ streamBit_free rfl hi⟩

end Sys2Proof.Machine
end

section
/-! PROOFS, family 20_memory: the size INFO shows (R25), and what the sink's order (O52) says in each part of a job. -/

namespace Sys2Proof.Machine

/-! ## The size INFO shows -/

theorem infoOk_iff (s : State) :
    infoOk s = true ↔
      s.hdr.w = (s.info.extractLsb' 0 14).toNat + 1 ∧ s.hdr.h = (s.info.extractLsb' 14 14).toNat + 1 := by
  simp [infoOk]

/-- The INFO word of a header is its fields, one above the other (R25, R141). -/
theorem infoWord_eq_append (w h : BitVec 14) (a : BitVec 1) (v : BitVec 3) :
    infoWord ⟨w.toNat + 1, h.toNat + 1, a, v⟩ = v ++ a ++ h ++ w := by
  have hbits : (v ++ a ++ h ++ w).toNat = w.toNat ||| h.toNat <<< 14 ||| a.toNat <<< 28 ||| v.toNat <<< 29 := by
    rw [BitVec.toNat_append, BitVec.toNat_append, BitVec.toNat_append]
    rw [Nat.shiftLeft_or_distrib, Nat.shiftLeft_or_distrib, Nat.shiftLeft_or_distrib, ← Nat.shiftLeft_add,
      ← Nat.shiftLeft_add, ← Nat.shiftLeft_add]
    rw [Nat.or_comm (_ ||| _) w.toNat, Nat.or_comm (_ ||| _) (h.toNat <<< _), Nat.or_comm (v.toNat <<< _),
      Nat.or_assoc, Nat.or_assoc]
  simp only [infoWord, Nat.add_sub_cancel]
  rw [← hbits]
  exact BitVec.ofNat_toNat _ _

theorem infoWord_dimensions (w h : BitVec 14) (a : BitVec 1) (v : BitVec 3) :
    (infoWord ⟨w.toNat + 1, h.toNat + 1, a, v⟩).extractLsb' 0 14 = w ∧
    (infoWord ⟨w.toNat + 1, h.toNat + 1, a, v⟩).extractLsb' 14 14 = h := by
  rw [infoWord_eq_append]
  constructor
  · exact BitVec.extractLsb'_append_eq_right
  · ext j hj
    rw [BitVec.getElem_extractLsb', BitVec.getLsbD_append, BitVec.getLsbD_append]
    simp [hj]

theorem phase_of_abort {k : Failure} {s t : State} (h : abort k s = .next t) : t.phase = .error := by
  rw [abort_next.1 h]; rfl

/-- A header that does not fail the job shows its dimensions in INFO (R141). -/
theorem infoOk_of_header {i : Instr} {s t : State} (hi : isHeader i = true) (hx : exec i s = .next t)
    (hrun : t.phase ≠ .error) : infoOk t = true := by
  cases i with
  | hdr magic w h a v =>
    have hx : execHdr magic w h a v s = .next t := hx
    simp only [execHdr, whenStage_next, decide_eq_true_eq] at hx
    obtain ⟨-, hx⟩ := hx
    split_ifs at hx
    · exact absurd (phase_of_abort hx) hrun
    · exact absurd (phase_of_abort hx) hrun
    · exact absurd (phase_of_abort hx) hrun
    · exact absurd (phase_of_abort hx) hrun
    · cases hx
      obtain ⟨hw, hh⟩ := infoWord_dimensions w h a v
      exact (infoOk_iff _).2 ⟨by rw [hw], by rw [hh]⟩
  | _ => cases hi

/-- Where HDR is next, the core's move to the transform list has read it and shows the size (R140, R141). -/
theorem infoOk_of_coreMove_header {s t : State} (hph : s.phase = .header) (hst : s.stage = .header)
    (hops : s.ops = []) (he : s.emit = .off) (ht : t.phase = .xform) (h : coreMove s = .next t) :
    infoOk t = true := by
  have hrun : runElement s = .next t := by
    simpa [coreMove, Machine.sequence, hops, he, hst, hph, Phase.running] using h
  obtain ⟨c, i, hc, hdec, hx⟩ := runElement_next.1 hrun
  obtain rfl : c = .header := by simpa [fetchCtx, hst, eq_comm] using hc
  exact infoOk_of_header ((decode_admitted_kind hdec).2.2 rfl) hx (by simp [ht])

/-! ## The sink in each part of a job -/

/-- Level 0 is not being read yet and the header has been (R140). -/
def beforeRows : Phase → Bool
  | .xform | .ccache | .metaCfg | .codes => true
  | .idle | .header | .pixels | .finish | .done | .error => false

/-- Level 0's rows are read and emitted (R140). -/
def emitsRows : Phase → Bool
  | .pixels | .finish => true
  | .idle | .header | .xform | .ccache | .metaCfg | .codes | .done | .error => false

/-- The sink is allocated and the pixels set and waiting are those of the rows issued (R71, R311). -/
def SinkFilled (s : State) : Prop :=
  s.sink.size = some (s.hdr.w, s.hdr.h, 4) ∧ batchOk s = true ∧
    s.sink.positions ++ s.ops.filterMap setPosition? = raster s.hdr.w (rowsIssued s)

/-- SINK_ALLOC waits and no row is done (R311). -/
def AllocWaits (s : State) : Prop :=
  s.ops = [.sinkAlloc s.hdr.w s.hdr.h] ∧ s.emit = .off ∧ s.rowsEmitted = 0 ∧ s.rowsDone = 0

section
variable {s t : State}

theorem sinkOk_header_iff (hp : s.phase = .header) :
    sinkOk s = true ↔ s.rowsDone = 0 ∧ s.rowsEmitted = 0 ∧ s.emit = .off ∧ s.ops = [] := by
  simp [sinkOk, hp, and_assoc]

theorem sinkOk_beforeRows_iff (hp : beforeRows s.phase = true) :
    sinkOk s = true ↔
      infoOk s = true ∧ s.rowsDone = 0 ∧ s.rowsEmitted = 0 ∧ s.emit = .off ∧ (s.phase = .xform ∨ s.ops = []) := by
  unfold sinkOk
  cases hph : s.phase <;> simp [hph, beforeRows] at hp <;> simp [and_assoc]

theorem sinkOk_emitsRows_iff (hp : emitsRows s.phase = true) :
    sinkOk s = true ↔
      infoOk s = true ∧ s.rowsDone ≤ s.hdr.h ∧ s.rowsEmitted ≤ s.hdr.h ∧ (AllocWaits s ∨ SinkFilled s) := by
  unfold sinkOk
  cases hph : s.phase <;> simp [hph, emitsRows] at hp <;> simp [AllocWaits, SinkFilled, and_assoc]

theorem sinkOk_done_iff (hp : s.phase = .done) :
    sinkOk s = true ↔ s.sink.whole = true ∧ s.sink.size = some (infoSize s) ∧
      s.sink.positions = raster (infoSize s).1 (infoSize s).2.1 := by
  simp [sinkOk, hp, and_assoc]

/-- With no operation waiting, the sink holds the rows issued. -/
theorem sinkOk_emitsRows_iff_of_nil (hp : emitsRows s.phase = true) (hops : s.ops = []) :
    sinkOk s = true ↔
      infoOk s = true ∧ s.rowsDone ≤ s.hdr.h ∧ s.rowsEmitted ≤ s.hdr.h ∧
        s.sink.size = some (s.hdr.w, s.hdr.h, 4) ∧ batchOk s = true ∧
        s.sink.positions = raster s.hdr.w (rowsIssued s) := by
  rw [sinkOk_emitsRows_iff hp]
  simp [AllocWaits, SinkFilled, hops]

/-- Rows are in emission while they are read, or after. -/
theorem emitsRows_of_emit (hpos : positionOk s = true) (hk : sinkOk s = true) (he : s.emit ≠ .off) :
    emitsRows s.phase = true := by
  have hst : s.stage ≠ .idle := fun hidle => he (positionOk_idle hpos hidle).2
  have hrun := (phase_of_stage hpos hst).1
  cases hp : s.phase with
  | pixels | finish => rfl
  | header =>
    obtain ⟨-, -, hoff, -⟩ := (sinkOk_header_iff hp).1 hk
    exact absurd hoff he
  | xform | ccache | metaCfg | codes =>
    obtain ⟨-, -, -, hoff, -⟩ := (sinkOk_beforeRows_iff (by rw [hp]; rfl)).1 hk
    exact absurd hoff he
  | _ => simp [hp, Phase.running] at hrun

/-- Only at HDR's position is PHASE HEADER (R30). -/
theorem phase_of_header (hpos : positionOk s = true) (hst : s.stage = .header) : s.phase = .header := by
  obtain ⟨hn, h0, -⟩ := positionOk_header hpos hst
  obtain ⟨-, hst', -⟩ | ⟨hph, -⟩ | ⟨-, hst'⟩ := (positionOk_noImage_iff hn h0).1 hpos
  · simp [hst] at hst'
  · exact hph
  · simp [hst] at hst'

/-- Only level 0 ends in FINISH (R140). -/
theorem phase_of_finish (hpos : positionOk s = true) (hst : s.stage = .finish) : s.phase = .finish := by
  unfold positionOk at hpos
  cases hp : s.phase <;> cases h0 : s.img0 <;> cases hn : s.nested <;> simp [hp, h0, hn, hst] at hpos ⊢
  next n => cases hu : n.use <;> simp [useOk, hu] at hpos
  next m n => cases hu : n.use <;> simp [groupMapOk, hu] at hpos

end

end Sys2Proof.Machine
end

section
/-! PROOFS, family 20_memory: the rows of a batch in raster order (R71, R313). -/

namespace Sys2Proof.Machine

theorem raster_add (w y0 k : Nat) :
    raster w (y0 + k) = raster w y0 ++ (List.range k).flatMap fun dy => (List.range w).map fun x => (x, y0 + dy) := by
  simp [raster, List.range_add, List.flatMap_map]

/-- The SINK_SETs of rows `y0 .. y1 − 1` continue the raster order from row `y0` (R71, R313). -/
theorem raster_append_rowSets {y0 y1 : Nat} (w : Nat) (pix : List Word) (h : y0 ≤ y1) :
    raster w y0 ++ (rowSets w y0 y1 pix).filterMap setPosition? = raster w y1 := by
  rw [← Nat.add_sub_cancel' h, raster_add, Nat.add_sub_cancel' h]
  simp [rowSets, List.filterMap_flatMap, List.filterMap_map, Function.comp_def, setPosition?]

theorem rowSets_all_set (w y0 y1 : Nat) (pix : List Word) :
    ((rowSets w y0 y1 pix).all fun i => (setPosition? i).isSome) = true := by
  simp [rowSets, setPosition?]

theorem inverseOps_all_inverse (xfs : List Xform) : (inverseOps xfs).all isInverse = true := by
  rw [inverseOps, List.all_map, List.all_reverse, List.all_eq_true]
  rintro ⟨k, -, -, -⟩ -
  cases k <;> rfl

/-- An inverse transform does not call the sink (R260). -/
theorem isInverse_calls_no_sink {i : Instr} (h : isInverse i = true) :
    isSinkCall i = false ∧ setPosition? i = none := by
  cases i with
  | invPred | invXcolor | invSubgreen | invCindex => exact ⟨rfl, rfl⟩
  | _ => cases h

theorem filterMap_setPosition_of_inverse {l : List Instr} (h : l.all isInverse = true) :
    l.filterMap setPosition? = [] := by
  rw [List.filterMap_eq_nil_iff]
  exact fun i hi => (isInverse_calls_no_sink (List.all_eq_true.1 h i hi)).2

end Sys2Proof.Machine
end

section
/-! PROOFS, family 20_memory: every step keeps the sink's order (O52). -/

namespace Sys2Proof.Machine

section
variable {i : Instr} {s t : State} {m : Img}

/-! ## From one state to the next -/

/-- Nothing the sink's order speaks of differs but PHASE. -/
structure SameRows (s t : State) : Prop where
  info : t.info = s.info
  hdr : t.hdr = s.hdr
  rowsDone : t.rowsDone = s.rowsDone
  rowsEmitted : t.rowsEmitted = s.rowsEmitted
  emit : t.emit = s.emit
  ops : t.ops = s.ops
  sink : t.sink = s.sink

theorem sinkOk_of_samePhase (hk : sinkOk s = true) (h : SameRows s t) (hph : t.phase = s.phase) : sinkOk t = true := by
  rw [← hk]
  simp only [sinkOk, infoOk, batchOk, rowsIssued, infoSize, hph, h.info, h.hdr, h.rowsDone, h.rowsEmitted, h.emit,
    h.ops, h.sink]

/-- The job goes on towards level 0's rows. -/
theorem sinkOk_of_beforeRows (hk : sinkOk s = true) (h : SameRows s t) (hops : s.ops = [])
    (hs : beforeRows s.phase = true) (ht : beforeRows t.phase = true) : sinkOk t = true := by
  obtain ⟨hinfo, hdone, hemitted, he, -⟩ := (sinkOk_beforeRows_iff hs).1 hk
  refine (sinkOk_beforeRows_iff ht).2
    ⟨?_, h.rowsDone.trans hdone, h.rowsEmitted.trans hemitted, h.emit.trans he, .inr (h.ops.trans hops)⟩
  simpa only [infoOk, h.info, h.hdr] using hinfo

/-! ## Elements -/

/-- Rows are complete up to the position of the next pixel, which lies in the image (R312). -/
theorem rowsDone_le {vs : List Word} (hroom : m.pix.length + vs.length ≤ m.size) :
    (vs.foldl Img.emit m).pos / (vs.foldl Img.emit m).xs ≤ m.ys := by
  have hpos : (vs.foldl Img.emit m).pos = m.pix.length + vs.length := by rw [Img.pos, foldl_emit_eq]; simp
  rw [hpos, (foldl_emit_shape vs m).1]
  exact Nat.div_le_of_le_mul hroom

/-- Every stream element keeps the sink's order. That HDR has shown the size in INFO is a hypothesis: the header of
`ElementDoes` may be 0 wide, which INFO does not show. -/
theorem ElementDoes.keeps_sink (h : ElementDoes i s t) (hpos : positionOk s = true) (hk : sinkOk s = true)
    (hops : s.ops = []) (he : s.emit = .off) (hinfo : s.stage = .header → t.phase = .xform → infoOk t = true) :
    sinkOk t = true := by
  cases h with
  | fails => rfl
  | header hd hi hst =>
    obtain ⟨hdone, hemitted, -, -⟩ := (sinkOk_header_iff (phase_of_header hpos hst)).1 hk
    exact (sinkOk_beforeRows_iff rfl).2 ⟨hinfo hst rfl, hdone, hemitted, he, .inl rfl⟩
  | xformEnd hi hst =>
    obtain ⟨-, -, hph⟩ := positionOk_xform hpos hst
    exact sinkOk_of_beforeRows hk ⟨rfl, rfl, rfl, rfl, rfl, rfl, rfl⟩ hops (by rw [hph]; rfl) rfl
  | subImage | subtractGreen | metaImage | codeGoesOn =>
    exact sinkOk_of_samePhase hk ⟨rfl, rfl, rfl, rfl, rfl, rfl, rfl⟩ rfl
  | cache m cc n hst hm =>
    rw [afterCache_eq]
    cases hl : m.level0 with
    | false => exact sinkOk_of_samePhase hk (by constructor <;> simp) (by simp)
    | true =>
      have hph : s.phase = .ccache := by simpa [hst, level0Phase, eq_comm] using level0Phase_of_curImg hpos hm hl
      exact sinkOk_of_beforeRows hk (by constructor <;> simp) hops (by rw [hph]; rfl) rfl
  | noMeta m hi hst hm =>
    obtain ⟨-, -, -, hph⟩ := positionOk_metaBit hpos hst hm
    exact sinkOk_of_beforeRows hk ⟨rfl, rfl, rfl, rfl, rfl, rfl, rfl⟩ hops (by rw [hph]; rfl) rfl
  | codeEnds m L n hm hst =>
    rw [pushCode_eq]
    cases hlast : lastOfCodes m && m.level0 with
    | false => exact sinkOk_of_samePhase hk (by constructor <;> simp) (by simp)
    | true =>
      have hl : m.level0 = true := (Bool.and_eq_true_iff.1 hlast).2
      have hph : s.phase = .codes := by
        simpa [level0Phase_of_readsCode hst, eq_comm] using level0Phase_of_curImg hpos hm hl
      obtain ⟨hinfo, hdone, hemitted, -, -⟩ := (sinkOk_beforeRows_iff (by rw [hph]; rfl)).1 hk
      refine (sinkOk_emitsRows_iff rfl).2
        ⟨by simpa [infoOk] using hinfo, by simp [hdone], by simp [hemitted], .inl ?_⟩
      simp [AllocWaits, hops, he, hdone, hemitted]
  | pixels m vs n hi hst hm hroom =>
    cases hl : m.level0 with
    | false => exact sinkOk_of_samePhase hk (by constructor <;> simp) (by simp)
    | true =>
      obtain ⟨-, -, ⟨-, -, -, hlevel0, hph⟩ | ⟨hl', -⟩⟩ := positionOk_curImg hpos hm
      · obtain ⟨-, -, hys, -⟩ := level0Ok_iff.1 hlevel0
        rw [hst] at hph
        have hp : emitsRows s.phase = true := by rw [← Option.some.inj hph]; rfl
        obtain ⟨hinfo, -, hemitted, hfilled⟩ := (sinkOk_emitsRows_iff_of_nil hp hops).1 hk
        refine (sinkOk_emitsRows_iff_of_nil (by simpa using hp) (by simpa using hops)).2 ⟨?_, ?_, ?_, ?_⟩
        · simpa [infoOk] using hinfo
        · simpa [← hys] using rowsDone_le hroom
        · simpa using hemitted
        · simpa [batchOk, rowsIssued] using hfilled
      · simp [hl] at hl'

/-! ## Turns -/

/-- With no batch in emission, the next rows enter the pipeline (R312, R314). -/
theorem sinkOk_beginBatch {y1 : Nat} (hk : sinkOk s = true) (hp : emitsRows s.phase = true) (hops : s.ops = [])
    (he : s.emit = .off) (hlt : s.rowsEmitted < y1) (hle : y1 ≤ s.hdr.h) :
    sinkOk (beginBatch s.rowsEmitted y1 m s) = true := by
  obtain ⟨hinfo, hdone, hemitted, hsize, -, hpositions⟩ := (sinkOk_emitsRows_iff_of_nil hp hops).1 hk
  refine (sinkOk_emitsRows_iff (by exact hp)).2 ⟨hinfo, hdone, hemitted, .inr ⟨hsize, ?_, ?_⟩⟩
  · simp [batchOk, hops, hlt, hle, inverseOps_all_inverse]
  · simpa [rowsIssued, hops, he, filterMap_setPosition_of_inverse (inverseOps_all_inverse s.xfs)] using hpositions

/-- Every turn of the control flow keeps the sink's order. -/
theorem TurnDoes.keeps_sink (h : TurnDoes s t) (hpos : positionOk s = true) (hk : sinkOk s = true)
    (hops : s.ops = []) : sinkOk t = true := by
  cases h with
  | setsIssued y0 y1 he =>
    have hp := emitsRows_of_emit hpos hk (by simp [he])
    obtain ⟨hinfo, hdone, hemitted, hsize, hbatch, hpositions⟩ := (sinkOk_emitsRows_iff_of_nil hp hops).1 hk
    simp only [batchOk, he, Bool.and_eq_true, beq_iff_eq, decide_eq_true_eq] at hbatch
    obtain ⟨⟨⟨rfl, hlt⟩, hle⟩, -⟩ := hbatch
    refine (sinkOk_emitsRows_iff (by exact hp)).2 ⟨hinfo, hdone, hemitted, .inr ⟨hsize, ?_, ?_⟩⟩
    · simp only [batchOk, hops, List.nil_append, rowSets_all_set, hlt, hle, decide_true, Bool.and_self]
    · simp only [hops, List.nil_append, hpositions, rowsIssued, he]
      exact raster_append_rowSets _ _ hlt.le
  | batchOut y1 he =>
    have hp := emitsRows_of_emit hpos hk (by simp [he])
    obtain ⟨hinfo, hdone, -, hsize, hbatch, hpositions⟩ := (sinkOk_emitsRows_iff_of_nil hp hops).1 hk
    simp only [batchOk, he, Bool.and_eq_true, decide_eq_true_eq] at hbatch
    obtain ⟨⟨-, hle⟩, -⟩ := hbatch
    refine (sinkOk_emitsRows_iff_of_nil (by exact hp) (by exact hops)).2 ⟨hinfo, hdone, hle, hsize, ?_, ?_⟩
    · simp [batchOk, hops]
    · simpa [rowsIssued, he] using hpositions
  | batchDue m he hst hm hl hdue =>
    have hph : s.phase = .pixels := by simpa [hst, level0Phase, eq_comm] using level0Phase_of_curImg hpos hm hl
    have hp : emitsRows s.phase = true := by rw [hph]; rfl
    obtain ⟨-, hdone, -⟩ := (sinkOk_emitsRows_iff hp).1 hk
    exact sinkOk_beginBatch hk hp hops he (Nat.lt_add_of_pos_right (by decide)) (hdue.trans hdone)
  | lastBatch m he hst hm hleft =>
    exact sinkOk_beginBatch hk (by rw [phase_of_finish hpos hst]; rfl) hops he hleft le_rfl
  | tilesEnd | paletteEnds => exact sinkOk_of_samePhase hk ⟨rfl, rfl, rfl, rfl, rfl, rfl, rfl⟩ rfl
  | paletteIssued wb m he hst hn =>
    have hph : s.phase = .xform := (phase_of_pendingKind hpos hn nofun).1
    have hp : beforeRows s.phase = true := by rw [hph]; rfl
    obtain ⟨hinfo, hdone, hemitted, he, -⟩ := (sinkOk_beforeRows_iff hp).1 hk
    exact (sinkOk_beforeRows_iff (by exact hp)).2 ⟨hinfo, hdone, hemitted, he, .inl hph⟩
  | metaEnds mb mi m he hst hn hfull hm =>
    obtain ⟨-, ⟨-, h0, -⟩ | ⟨hph, -⟩⟩ := (positionOk_nested_iff hn).1 hpos
    · simp [hm] at h0
    · exact sinkOk_of_beforeRows hk ⟨rfl, rfl, rfl, rfl, rfl, rfl, rfl⟩ hops (by rw [hph]; rfl) rfl
  | endCheckFails => rfl
  | level0Ends m he hst hn hm =>
    obtain ⟨-, -, hph⟩ := (positionOk_level0_iff hn hm).1 hpos
    rw [hst] at hph
    have hp : emitsRows s.phase = true := by rw [← Option.some.inj hph]; rfl
    exact (sinkOk_emitsRows_iff rfl).2 ((sinkOk_emitsRows_iff hp).1 hk)
  | jobEnds he hst hout =>
    obtain ⟨hinfo, -, hemitted, hsize, -, hpositions⟩ :=
      (sinkOk_emitsRows_iff_of_nil (by rw [phase_of_finish hpos hst]; rfl) hops).1 hk
    obtain ⟨hw, hh⟩ := (infoOk_iff s).1 hinfo
    have hall : rowsIssued s = s.hdr.h := by simpa [rowsIssued, he] using le_antisymm hemitted hout
    rw [hall, hw, hh] at hpositions
    rw [hw, hh] at hsize
    exact (sinkOk_done_iff rfl).2 ⟨rfl, hsize, hpositions⟩

/-! ## Operations -/

/-- Operations wait for a palette or while rows are emitted (R148, R311, R313). -/
theorem phase_of_waiting {rest : List Instr} (hpos : positionOk s = true) (hk : sinkOk s = true)
    (hops : s.ops = i :: rest) : s.phase = .xform ∨ emitsRows s.phase = true := by
  have hst : s.stage ≠ .idle := fun hidle => by simp [(positionOk_idle hpos hidle).1] at hops
  have hrun := (phase_of_stage hpos hst).1
  cases hp : s.phase with
  | xform => exact .inl rfl
  | pixels | finish => exact .inr rfl
  | header => simp [(sinkOk_header_iff hp).1 hk] at hops
  | ccache | metaCfg | codes =>
    obtain ⟨-, -, -, -, hnone⟩ := (sinkOk_beforeRows_iff (by rw [hp]; rfl)).1 hk
    simp [hp, hops] at hnone
  | _ => simp [hp, Phase.running] at hrun

/-- The first operation left of a batch is an inverse transform or a SINK_SET, and the others are left of it too. -/
theorem batchOk_cons {rest : List Instr} (h : batchOk s = true) (hops : s.ops = i :: rest) :
    (isInverse i = true ∨ ∃ x y p, i = .sinkSet x y p) ∧ batchOk { s with ops := rest } = true := by
  unfold batchOk at h ⊢
  cases he : s.emit with
  | off => simp [he, hops] at h
  | inverting y0 y1 =>
    simp only [he, hops, List.all_cons, Bool.and_eq_true] at h ⊢
    obtain ⟨hrows, hi, hrest⟩ := h
    exact ⟨.inl hi, hrows, hrest⟩
  | sinking y1 =>
    simp only [he, hops, List.all_cons, Bool.and_eq_true] at h ⊢
    obtain ⟨hrows, hi, hrest⟩ := h
    refine ⟨.inr ?_, hrows, hrest⟩
    cases i with
    | sinkSet x y p => exact ⟨x, y, p, rfl⟩
    | _ => cases hi

/-- SINK_ALLOC begins the raster with the header's size (R311). -/
theorem SinkFilled.of_alloc {rest : List Instr} (h : AllocWaits s) (hops : s.ops = i :: rest)
    (hx : exec i { s with ops := rest } = .next t) : SinkFilled t := by
  obtain ⟨hwait, he, hemitted, -⟩ := h
  obtain ⟨rfl, rfl⟩ := List.cons_eq_cons.1 (hops.symm.trans hwait)
  cases hx
  refine ⟨rfl, by simp [batchOk, he], ?_⟩
  simp [Sink.positions, rowsIssued, he, hemitted, raster]

/-- An operation of a batch leaves the pixels set and waiting those of the rows issued (R313, R316). -/
theorem SinkFilled.of_batch {rest : List Instr} (h : SinkFilled s) (hi : isIssued i = true) (hops : s.ops = i :: rest)
    (hx : exec i { s with ops := rest } = .next t) : SinkFilled t := by
  obtain ⟨hsize, hbatch, hpositions⟩ := h
  rw [hops] at hpositions
  obtain ⟨hinv | ⟨x, y, p, rfl⟩, hrest⟩ := batchOk_cons hbatch hops
  · obtain ⟨-, hframe, -, -, -, -, hsink, -⟩ := operationFrame i _ t (isOperation_of_isIssued hi) hx
    obtain ⟨hcall, hset⟩ := isInverse_calls_no_sink hinv
    rw [List.filterMap_cons_none hset] at hpositions
    rw [hframe, hsink hcall]
    exact ⟨hsize, hrest, hpositions⟩
  · cases hx
    exact ⟨hsize, hrest, by simpa [Sink.positions, sinkPixel, setPosition?, rowsIssued] using hpositions⟩

/-- Every operation the sequencer issues keeps the sink's order. -/
theorem sinkOk_operation {rest : List Instr} (hpos : positionOk s = true) (hk : sinkOk s = true)
    (hi : isIssued i = true) (hops : s.ops = i :: rest) (hx : exec i { s with ops := rest } = .next t) :
    sinkOk t = true := by
  obtain ⟨-, hframe, -⟩ := operationFrame i _ t (isOperation_of_isIssued hi) hx
  obtain hph | hp := phase_of_waiting hpos hk hops
  · have hb : beforeRows s.phase = true := by rw [hph]; rfl
    obtain ⟨hinfo, hdone, hemitted, he, -⟩ := (sinkOk_beforeRows_iff hb).1 hk
    rw [hframe]
    exact (sinkOk_beforeRows_iff (by exact hb)).2 ⟨hinfo, hdone, hemitted, he, .inl hph⟩
  · obtain ⟨hinfo, hdone, hemitted, hsink⟩ := (sinkOk_emitsRows_iff hp).1 hk
    have hfilled : SinkFilled t := hsink.elim (.of_alloc · hops hx) (.of_batch · hi hops hx)
    rw [hframe] at hfilled ⊢
    exact (sinkOk_emitsRows_iff (by exact hp)).2 ⟨hinfo, hdone, hemitted, .inr hfilled⟩

/-! ## Steps -/

theorem sinkOk_coreMove (hs : Inv s) (hk : sinkOk s = true) (h : coreMove s = .next t) : sinkOk t = true := by
  obtain ⟨-, -, -, hpos, -, hissued⟩ := hs
  obtain ⟨i, rest, hops, hx⟩ | ⟨hops, he, i, hdoes⟩ | ⟨hops, hdoes⟩ | rfl := coreMove_does h
  · simp only [hops, List.all_cons, Bool.and_eq_true] at hissued
    exact sinkOk_operation hpos hk hissued.1 hops hx
  · exact hdoes.keeps_sink hpos hk hops he fun hst ht =>
      infoOk_of_coreMove_header (phase_of_header hpos hst) hst hops he ht h
  · exact hdoes.keeps_sink hpos hk hops
  · exact hk

theorem writeReg_keeps_sink (r : Reg) (v : Word) (hk : sinkOk s = true) : sinkOk (writeReg r v s) = true := by
  cases r with
  | inLen | expect => unfold writeReg; dsimp only; split_ifs <;> exact hk
  | _ => exact hk

theorem writeIn_keeps_sink (a : BitVec 32) (b : Byte) (hk : sinkOk s = true) : sinkOk (writeIn a b s) = true := by
  unfold writeIn; dsimp only; split_ifs <;> exact hk

theorem sinkOk_hostMove {a : HostAct} (hs : Inv s) (hk : sinkOk s = true) (h : hostMove a s = .next t) :
    sinkOk t = true := by
  obtain ⟨-, h⟩ | ⟨v, -, h⟩ | ⟨r, v, -, -, rfl⟩ | ⟨x, b, -, rfl⟩ | ⟨-, rfl⟩ := hostMove_next.1 h
  · exact sinkOk_coreMove hs hk h
  · split_ifs at h
    · obtain rfl | ⟨-, rfl⟩ := execHostStart_does h
      · exact hk
      · rfl
    · cases h; exact hk
  · exact writeReg_keeps_sink r v hk
  · exact writeIn_keeps_sink x b hk
  · rfl

end

/-- Settles O52: the core's move and the host's access each keep the sink's order. -/
theorem sinkInRasterOrder : Obligations.SinkInRasterOrder := by
  intro s t hs hk h
  obtain ⟨-, h⟩ | ⟨a, rest, -, h⟩ := step_does h
  · exact sinkOk_coreMove hs hk h
  · exact sinkOk_hostMove (s := { s with host := rest }) hs hk h

end Sys2Proof.Machine
end

section
/-! PROOFS, family 30_encoding: windows that begin with given bits, and the decoding of one symbol by its
codeword (spec/30_encoding.md R90, R91; spec/42_huffman.md R195 to R199). -/

namespace Sys2Proof
open Machine (startsWith)

/-! ## Windows that begin with given bits -/

section
variable {rd : Window} {off : Nat}

@[simp] theorem startsWith_nil : startsWith rd off [] := nofun

@[simp] theorem startsWith_cons {b : Bool} {bs : List Bool} :
    startsWith rd off (b :: bs) ↔ rd off = b ∧ startsWith rd (off + 1) bs := by
  refine Iff.trans Nat.forall_lt_succ_left' (and_congr Iff.rfl ?_)
  simp only [startsWith, windowOfBits, Nat.add_assoc, Nat.add_comm 1, List.getD_cons_succ]

@[simp] theorem startsWith_append {bs cs : List Bool} :
    startsWith rd off (bs ++ cs) ↔ startsWith rd off bs ∧ startsWith rd (off + bs.length) cs := by
  induction bs generalizing off with
  | nil => simp
  | cons b bs ih => simp [ih, and_assoc, Nat.add_assoc, Nat.add_comm 1]

/-- The low bits of a number, from its least significant on. -/
theorem bitsOf_succ (n v : Nat) : bitsOf (n + 1) v = v.testBit 0 :: bitsOf n (v / 2) := by
  simp [bitsOf, List.range_succ_eq_map, Function.comp_def, Nat.testBit_succ]

theorem bitsAt_lt (rd : Window) (off n : Nat) : bitsAt rd off n < 2 ^ n := by
  induction n generalizing off with
  | zero => simp [bitsAt]
  | succ n ih =>
    have hrest := ih (off + 1)
    have hbit := Bool.toNat_lt (rd off)
    simp only [bitsAt]
    omega

/-- A window begins with the low `n` bits of `v` exactly when they are what the next `n` bits read as (R90). -/
theorem startsWith_bitsOf_iff {n v : Nat} (hv : v < 2 ^ n) :
    startsWith rd off (bitsOf n v) ↔ bitsAt rd off n = v := by
  induction n generalizing off v with
  | zero => simp [bitsOf, bitsAt]; omega
  | succ n ih =>
    rw [bitsOf_succ, startsWith_cons, ih (by omega), bitsAt, Nat.testBit_zero]
    have hmod := Nat.mod_two_eq_zero_or_one v
    cases rd off <;> simp <;> omega

/-- The same for a field: the window begins with its bits exactly when the field read is it. -/
@[simp] theorem startsWith_field_iff {n : Nat} {b : BitVec n} :
    startsWith rd off (bitsOf n b.toNat) ↔ fieldAt rd off n = b := by
  rw [startsWith_bitsOf_iff b.isLt, ← BitVec.toNat_inj, fieldAt, BitVec.toNat_ofNat, Nat.mod_eq_of_lt (bitsAt_lt ..)]

theorem fieldAt_toNat (rd : Window) (off n : Nat) : (fieldAt rd off n).toNat = bitsAt rd off n :=
  Nat.mod_eq_of_lt (bitsAt_lt rd off n)

/-! ## The bits of a codeword, most significant first -/

/-- The value of the first `n` bits, the first one most significant (R91). -/
def leadingValue (rd : Window) (off : Nat) : Nat → Nat
  | 0 => 0
  | n + 1 => 2 * leadingValue rd off n + (rd (off + n)).toNat

/-- A window begins with the `n` bits of `c`, most significant first, exactly when that is their value (R91). -/
theorem startsWith_reverse_bitsOf_iff {n c : Nat} (hc : c < 2 ^ n) :
    startsWith rd off (bitsOf n c).reverse ↔ leadingValue rd off n = c := by
  induction n generalizing c with
  | zero => simp [bitsOf, leadingValue]; omega
  | succ n ih =>
    rw [bitsOf_succ, List.reverse_cons, startsWith_append, ih (by omega), leadingValue, Nat.testBit_zero]
    have hmod := Nat.mod_two_eq_zero_or_one c
    cases hb : rd (off + n) <;> simp [hb] <;> omega

/-- The value of fewer bits is that of more without the last ones. -/
theorem leadingValue_eq_div (rd : Window) (off n k : Nat) :
    leadingValue rd off n = leadingValue rd off (n + k) / 2 ^ k := by
  induction k with
  | zero => simp
  | succ k ih =>
    have hbit := Bool.toNat_lt (rd (off + (n + k)))
    rw [ih, ← Nat.add_assoc, leadingValue, pow_succ', ← Nat.div_div_eq_div_mul]
    congr 1
    omega

end

/-! ## Canonical codes -/

section
variable {L : Code} {s : Nat}

theorem hasSymbol_iff : hasSymbol L s = true ↔ L.getD s 0 ≠ 0 := by simp [hasSymbol]

/-- A codeword's length, for a symbol present: the entry at its index. -/
theorem getElem?_eq_some_iff_getD {l : Nat} (hl : l ≠ 0) : L[s]? = some l ↔ L.getD s 0 = l := by
  rw [List.getD_eq_getElem?_getD]
  cases L[s]? <;> simp [hl.symm]

/-- The symbol found is the one whose codeword, counted in symbol order from `next`, is `c` (R197). -/
theorem findSymbol_eq_some_iff {l c next i : Nat} :
    findSymbol l c L next i = some s ↔ ∃ k, s = i + k ∧ L[k]? = some l ∧ c = next + (L.take k).count l := by
  induction L generalizing next i with
  | nil => simp [findSymbol]
  | cons x xs ih =>
    have hsplit : ∀ P : Nat → Prop, (∃ k, P k) ↔ P 0 ∨ ∃ k, P (k + 1) := fun P => Nat.or_exists_add_one.symm
    rw [hsplit]
    by_cases hx : x = l
    · by_cases hc : next = c
      · simp [findSymbol, hx, hc, eq_comm]
      · simp [findSymbol, hx, hc, ih, Ne.symm hc, Nat.add_assoc, Nat.add_comm 1]
    · simp [findSymbol, hx, ih, Nat.add_assoc, Nat.add_comm 1]

/-- Among the codewords of length `l`, in their place after the shorter ones, `c` is that of the symbol found. -/
theorem findSymbol_firstCode_iff {l c : Nat} (hl : l ≠ 0) :
    findSymbol l c L (firstCode L l) 0 = some s ↔ L.getD s 0 = l ∧ c = codeword L s := by
  simp only [findSymbol_eq_some_iff, Nat.zero_add, exists_eq_left', getElem?_eq_some_iff_getD hl]
  exact and_congr_right fun h => by rw [codeword, h, lenCount]

/-- A symbol's codeword comes before the end of those of its length. -/
theorem codeword_lt (hs : L.getD s 0 ≠ 0) :
    codeword L s < firstCode L (L.getD s 0) + lenCount L (L.getD s 0) := by
  have hget := (getElem?_eq_some_iff_getD hs).2 rfl
  have hcount : (L.take (s + 1)).count (L.getD s 0) ≤ L.count (L.getD s 0) := (List.take_sublist _ _).count_le _
  rw [List.take_add_one, hget, Option.toList_some, List.count_append, List.count_singleton_self] at hcount
  simp only [codeword, lenCount]
  omega

/-- Left-aligned, the codewords of one length end before those of a longer one begin (R197). -/
theorem codesEnd_le_firstCode (L : Code) {l : Nat} (hl : l ≠ 0) (k : Nat) :
    (firstCode L l + lenCount L l) * 2 ^ (k + 1) ≤ firstCode L (l + k + 1) := by
  obtain ⟨l, rfl⟩ := Nat.exists_eq_add_one_of_ne_zero hl
  induction k with
  | zero => exact le_rfl
  | succ k ih =>
    calc (firstCode L (l + 1) + lenCount L (l + 1)) * 2 ^ (k + 1 + 1)
        = (firstCode L (l + 1) + lenCount L (l + 1)) * 2 ^ (k + 1) * 2 := by rw [pow_succ, mul_assoc]
      _ ≤ (firstCode L (l + 1 + k + 1) + lenCount L (l + 1 + k + 1)) * 2 := by omega
      _ = firstCode L (l + 1 + (k + 1) + 1) := rfl

/-- A symbol shorter than `l` moves the first codeword of length `l` by the codewords it covers. -/
theorem firstCode_cons (x : Nat) (L : Code) (l : Nat) :
    firstCode (x :: L) l = firstCode L l + if x = 0 ∨ l ≤ x then 0 else 2 ^ (l - x) := by
  induction l with
  | zero => simp [firstCode]
  | succ l ih =>
    cases l with
    | zero => simp [firstCode]
    | succ l =>
      simp only [firstCode, ih, lenCount, List.count_cons, beq_iff_eq]
      obtain h | rfl | h := lt_trichotomy x (l + 1)
      · have hpow : 2 ^ (l + 1 + 1 - x) = 2 ^ (l + 1 - x) * 2 := by rw [← pow_succ]; congr 1; omega
        rw [hpow]
        split_ifs <;> omega
      · simp; omega
      · split_ifs <;> omega

/-- The codewords of at most 15 bits end where the lengths fill the tree to (R196). -/
theorem codesEnd_eq_kraftSum (h : ∀ l ∈ L, l ≤ 15) : firstCode L 15 + lenCount L 15 = kraftSum L := by
  induction L with
  | nil => rfl
  | cons x xs ih =>
    obtain ⟨hx, hxs⟩ := List.forall_mem_cons.1 h
    have ih := ih hxs
    simp only [kraftSum, lenCount, List.map_cons, List.sum_cons, List.count_cons, beq_iff_eq, firstCode_cons] at ih ⊢
    obtain rfl | hlt := Nat.eq_or_lt_of_le hx
    · simp; omega
    · split_ifs <;> omega

theorem validCode_iff :
    validCode L = true ↔
      (∀ l ∈ L, l ≤ 15) ∧ (codeSymbols L = 1 ∨ (2 ≤ codeSymbols L ∧ kraftSum L = 2 ^ 15)) := by
  simp [validCode]

theorem length_le_of_validCode (hL : validCode L = true) (s : Nat) : L.getD s 0 ≤ 15 := by
  rw [List.getD_eq_getElem?_getD]
  cases hs : L[s]? with
  | none => exact Nat.zero_le _
  | some l => exact (validCode_iff.1 hL).1 l (List.mem_of_getElem? hs)

/-- In a full tree a codeword fits its length (R196). -/
theorem codeword_lt_two_pow (hL : validCode L = true) (hmany : codeSymbols L ≠ 1) (hs : L.getD s 0 ≠ 0) :
    codeword L s < 2 ^ L.getD s 0 := by
  obtain ⟨hle, hone | ⟨-, hfull⟩⟩ := validCode_iff.1 hL
  · exact absurd hone hmany
  rw [← codesEnd_eq_kraftSum hle] at hfull
  refine (codeword_lt hs).trans_le ?_
  obtain h15 | ⟨k, hk⟩ := (length_le_of_validCode hL s).eq_or_lt.imp_right Nat.exists_eq_add_of_lt
  · rw [h15, hfull]
  · have hend := codesEnd_le_firstCode L hs k
    rw [← hk] at hend
    refine Nat.le_of_mul_le_mul_right (c := 2 ^ (k + 1)) ?_ (by positivity)
    rw [← pow_add, ← Nat.add_assoc, ← hk]
    omega

end

/-! ## Decoding a symbol -/

section
variable {L : Code} {rd : Window} {off s n : Nat}

theorem hasSymbol_cons_succ {x : Nat} : hasSymbol (x :: L) (s + 1) = hasSymbol L s := rfl

theorem codeSymbols_cons (x : Nat) (L : Code) : codeSymbols (x :: L) = codeSymbols L + if x = 0 then 0 else 1 := by
  simp [codeSymbols, List.countP_cons, ite_not]

theorem codeSymbols_pos (hs : hasSymbol L s = true) : 0 < codeSymbols L := by
  have hne := hasSymbol_iff.1 hs
  have hget := (getElem?_eq_some_iff_getD hne).2 rfl
  exact List.countP_pos_iff.2 ⟨_, List.mem_of_getElem? hget, by simpa using hne⟩

/-- The one symbol of a code is the first one present (R195). -/
theorem findIdx?_eq_some_iff_hasSymbol (h : codeSymbols L = 1) :
    L.findIdx? (· != 0) = some s ↔ hasSymbol L s = true := by
  induction L generalizing s with
  | nil => cases h
  | cons x xs ih =>
    rw [codeSymbols_cons] at h
    by_cases hx : x = 0
    · cases s with
      | zero => simp [List.findIdx?_cons, hasSymbol, hx]
      | succ s => simp [List.findIdx?_cons, hasSymbol_cons_succ, hx, ih (by simpa [hx] using h)]
    · cases s with
      | zero => simp [List.findIdx?_cons, hasSymbol, hx]
      | succ s =>
        have hnone : hasSymbol xs s ≠ true := fun hs => by
          have hpos := codeSymbols_pos hs
          simp [hx] at h
          omega
        simp [List.findIdx?_cons, hasSymbol_cons_succ, hx, hnone]

theorem singleSymbol?_eq_some_iff : singleSymbol? L = some s ↔ codeSymbols L = 1 ∧ hasSymbol L s = true := by
  unfold singleSymbol?
  split_ifs with h
  · simp [h, findIdx?_eq_some_iff_hasSymbol h]
  · simp [h]

theorem singleSymbol?_eq_none_iff : singleSymbol? L = none ↔ codeSymbols L ≠ 1 := by
  unfold singleSymbol?
  split_ifs with h
  · have hpos : 0 < L.countP (· != 0) := by rw [← codeSymbols, h]; exact one_pos
    obtain ⟨x, hx, hne⟩ := List.countP_pos_iff.1 hpos
    simp only [h, ne_eq, not_true_eq_false, iff_false, List.findIdx?_eq_none_iff, not_forall]
    exact ⟨x, hx, by simpa using hne⟩
  · simp [h]

/-- One turn of the walk, `l` bits read: the symbol with those and the next bit as its codeword, else on (R199). -/
theorem walkCode_succ (L : Code) (rd : Window) (off fuel l : Nat) :
    walkCode L rd off (fuel + 1) (l + 1) (firstCode L (l + 1)) (leadingValue rd off l) =
      (findSymbol (l + 1) (leadingValue rd off (l + 1)) L (firstCode L (l + 1)) 0).elim
        (walkCode L rd off fuel (l + 2) (firstCode L (l + 2)) (leadingValue rd off (l + 1)))
        fun s => some (s, l + 1) := by
  rw [walkCode, leadingValue]
  cases hfind : findSymbol (l + 1) (2 * leadingValue rd off l + (rd (off + l)).toNat) L (firstCode L (l + 1)) 0 <;>
    simp [hfind, firstCode]

/-- What the walk returns after `l` bits is a longer codeword the window begins with. -/
theorem walkCode_sound {fuel l : Nat}
    (h : walkCode L rd off fuel (l + 1) (firstCode L (l + 1)) (leadingValue rd off l) = some (s, n)) :
    n ≠ 0 ∧ L.getD s 0 = n ∧ leadingValue rd off n = codeword L s := by
  induction fuel generalizing l with
  | zero => cases h
  | succ fuel ih =>
    rw [walkCode_succ] at h
    cases hfind : findSymbol (l + 1) (leadingValue rd off (l + 1)) L (firstCode L (l + 1)) 0 with
    | none => exact ih (by simpa [hfind] using h)
    | some s' =>
      obtain ⟨rfl, rfl⟩ : s' = s ∧ l + 1 = n := by simpa [hfind] using h
      exact ⟨l.add_one_ne_zero, (findSymbol_firstCode_iff l.add_one_ne_zero).1 hfind⟩

/-- The first `l` bits of a longer codeword lie past the codewords of length `l` (R198). -/
theorem codesEnd_le_leadingValue {l : Nat} (hl : l ≠ 0) (hlt : l < L.getD s 0)
    (hval : leadingValue rd off (L.getD s 0) = codeword L s) :
    firstCode L l + lenCount L l ≤ leadingValue rd off l := by
  obtain ⟨k, hk⟩ := Nat.exists_eq_add_of_lt hlt
  rw [leadingValue_eq_div rd off l (k + 1), ← Nat.add_assoc, ← hk, hval, Nat.le_div_iff_mul_le (by positivity)]
  calc (firstCode L l + lenCount L l) * 2 ^ (k + 1)
      ≤ firstCode L (L.getD s 0) := hk ▸ codesEnd_le_firstCode L hl k
    _ ≤ codeword L s := Nat.le_add_right _ _

/-- The walk goes on to the codeword the window begins with: its shorter first parts are no codewords (R198). -/
theorem walkCode_complete {fuel l : Nat} (hl : l < L.getD s 0) (hfuel : L.getD s 0 ≤ l + fuel)
    (hval : leadingValue rd off (L.getD s 0) = codeword L s) :
    walkCode L rd off fuel (l + 1) (firstCode L (l + 1)) (leadingValue rd off l) = some (s, L.getD s 0) := by
  induction fuel generalizing l with
  | zero => omega
  | succ fuel ih =>
    have hfind := fun s' =>
      findSymbol_firstCode_iff (L := L) (s := s') (c := leadingValue rd off (l + 1)) l.add_one_ne_zero
    rw [walkCode_succ]
    obtain hlast | hmore : l + 1 = L.getD s 0 ∨ l + 1 < L.getD s 0 := by omega
    · rw [(hfind s).2 ⟨hlast.symm, hlast ▸ hval⟩, Option.elim_some, hlast]
    · have hnone : findSymbol (l + 1) (leadingValue rd off (l + 1)) L (firstCode L (l + 1)) 0 = none := by
        by_contra hsome
        obtain ⟨s', hs'⟩ := Option.ne_none_iff_exists'.1 hsome
        obtain ⟨hlen, hcode⟩ := (hfind s').1 hs'
        have hbefore := codeword_lt (L := L) (s := s') (by omega)
        have hend := codesEnd_le_leadingValue l.add_one_ne_zero hmore hval
        rw [hlen] at hbefore
        omega
      rw [hnone, Option.elim_none]
      exact ih hmore (by omega)

/-- In a valid code the symbol decoded is the one whose bits the window begins with, and takes just those (R198). -/
theorem decodeSymbol_eq_some_iff (hL : validCode L = true) :
    decodeSymbol L rd off = some (s, n) ↔
      hasSymbol L s = true ∧ n = symbolBits L s ∧ startsWith rd off (encodeSymbol L s) := by
  unfold decodeSymbol encodeSymbol symbolBits
  cases hone : singleSymbol? L with
  | some s' =>
    have hsymbols := (singleSymbol?_eq_some_iff.1 hone).1
    have hs : s' = s ↔ hasSymbol L s = true := by
      rw [← Option.some_inj, ← hone, singleSymbol?_eq_some_iff, and_iff_right hsymbols]
    simp [hsymbols, hs, bitsOf, eq_comm (a := n)]
  | none =>
    have hmany := singleSymbol?_eq_none_iff.1 hone
    simp only [hmany, if_false]
    constructor
    · intro h
      obtain ⟨hn, rfl, hval⟩ := walkCode_sound (l := 0) h
      exact ⟨hasSymbol_iff.2 hn, rfl, (startsWith_reverse_bitsOf_iff (codeword_lt_two_pow hL hmany hn)).2 hval⟩
    · rintro ⟨hs, rfl, hstart⟩
      have hn := hasSymbol_iff.1 hs
      have hval := (startsWith_reverse_bitsOf_iff (codeword_lt_two_pow hL hmany hn)).1 hstart
      have hle := length_le_of_validCode hL s
      exact walkCode_complete (l := 0) (Nat.pos_of_ne_zero hn) (by omega) hval

end

end Sys2Proof
end

section
/-! PROOFS, family 30_encoding: decoding and encoding are inverse to each other (O1), element by element of each
context (spec/30_encoding.md R82 to R92). -/

namespace Sys2Proof
open Machine (startsWith)

/-! ## The encoding of each element (R83 to R89) -/

section

@[simp] theorem encode_hdr (magic : BitVec 8) (w h : BitVec 14) (a : BitVec 1) (v : BitVec 3) :
    encode .header (.hdr magic w h a v) =
      bitsOf 8 magic.toNat ++ bitsOf 14 w.toNat ++ bitsOf 14 h.toNat ++ bitsOf 1 a.toNat ++ bitsOf 3 v.toNat := rfl

@[simp] theorem encode_xformEnd : encode .xform .xformEnd = [false] := rfl
@[simp] theorem encode_xformPred (b : BitVec 3) :
    encode .xform (.xformPred b) = [true, false, false] ++ bitsOf 3 b.toNat := rfl
@[simp] theorem encode_xformXcolor (b : BitVec 3) :
    encode .xform (.xformXcolor b) = [true, true, false] ++ bitsOf 3 b.toNat := rfl
@[simp] theorem encode_xformSubgreen : encode .xform .xformSubgreen = [true, false, true] := rfl
@[simp] theorem encode_xformCindex (n : BitVec 8) :
    encode .xform (.xformCindex n) = [true, true, true] ++ bitsOf 8 n.toNat := rfl

@[simp] theorem encode_ccacheOff : encode .ccache .ccacheOff = [false] := rfl
@[simp] theorem encode_ccacheOn (k : BitVec 4) : encode .ccache (.ccacheOn k) = [true] ++ bitsOf 4 k.toNat := rfl

@[simp] theorem encode_metaOff : encode .metaBit .metaOff = [false] := rfl
@[simp] theorem encode_metaOn (b : BitVec 3) : encode .metaBit (.metaOn b) = [true] ++ bitsOf 3 b.toNat := rfl

@[simp] theorem encode_hcodeS1b1 (x : BitVec 1) :
    encode .hcode (.hcodeS1b1 x) = [true, false, false] ++ bitsOf 1 x.toNat := rfl
@[simp] theorem encode_hcodeS1b8 (x : BitVec 8) :
    encode .hcode (.hcodeS1b8 x) = [true, false, true] ++ bitsOf 8 x.toNat := rfl
@[simp] theorem encode_hcodeS2b1 (x : BitVec 1) (y : BitVec 8) :
    encode .hcode (.hcodeS2b1 x y) = [true, true, false] ++ bitsOf 1 x.toNat ++ bitsOf 8 y.toNat := rfl
@[simp] theorem encode_hcodeS2b8 (x y : BitVec 8) :
    encode .hcode (.hcodeS2b8 x y) = [true, true, true] ++ bitsOf 8 x.toNat ++ bitsOf 8 y.toNat := rfl
@[simp] theorem encode_hcodeNormal (k : BitVec 4) (lens : List (BitVec 3)) :
    encode .hcode (.hcodeNormal k lens) =
      [false] ++ bitsOf 4 k.toNat ++ lens.flatMap fun l => bitsOf 3 l.toNat := rfl

@[simp] theorem encode_maxsymOff : encode .maxsym .maxsymOff = [false] := rfl
@[simp] theorem encode_maxsymOn (n : BitVec 3) (m : Nat) :
    encode .maxsym (.maxsymOn n m) = [true] ++ bitsOf 3 n.toNat ++ bitsOf (2 + 2 * n.toNat) m := rfl

variable (cl green red blue alpha dist : Code)

@[simp] theorem encode_clLit (tok : BitVec 4) : encode (.token cl) (.clLit tok) = encodeSymbol cl tok.toNat := rfl
@[simp] theorem encode_clRep16 (e : BitVec 2) :
    encode (.token cl) (.clRep16 e) = encodeSymbol cl 16 ++ bitsOf 2 e.toNat := rfl
@[simp] theorem encode_clZero17 (e : BitVec 3) :
    encode (.token cl) (.clZero17 e) = encodeSymbol cl 17 ++ bitsOf 3 e.toNat := rfl
@[simp] theorem encode_clZero18 (e : BitVec 7) :
    encode (.token cl) (.clZero18 e) = encodeSymbol cl 18 ++ bitsOf 7 e.toNat := rfl

@[simp] theorem encode_pxLiteral (g r b a : BitVec 8) :
    encode (.pixel green red blue alpha dist) (.pxLiteral g r b a) =
      encodeSymbol green g.toNat ++ encodeSymbol red r.toNat ++ encodeSymbol blue b.toNat ++
        encodeSymbol alpha a.toNat := rfl
@[simp] theorem encode_pxBackref (g le d de : Nat) :
    encode (.pixel green red blue alpha dist) (.pxBackref g le d de) =
      encodeSymbol green g ++ bitsOf (extraBits (g - 256)) le ++ encodeSymbol dist d ++ bitsOf (extraBits d) de := rfl
@[simp] theorem encode_pxCache (g : Nat) :
    encode (.pixel green red blue alpha dist) (.pxCache g) = encodeSymbol green g := rfl

/-! ## The elements read with codes that a context admits (R82, R94) -/

@[simp] theorem admits_clLit (tok : BitVec 4) :
    (Ctx.token cl).admits (.clLit tok) = (validCode cl && cl.length == 19 && hasSymbol cl tok.toNat) := rfl
@[simp] theorem admits_clRep16 (e : BitVec 2) :
    (Ctx.token cl).admits (.clRep16 e) = (validCode cl && cl.length == 19 && hasSymbol cl 16) := rfl
@[simp] theorem admits_clZero17 (e : BitVec 3) :
    (Ctx.token cl).admits (.clZero17 e) = (validCode cl && cl.length == 19 && hasSymbol cl 17) := rfl
@[simp] theorem admits_clZero18 (e : BitVec 7) :
    (Ctx.token cl).admits (.clZero18 e) = (validCode cl && cl.length == 19 && hasSymbol cl 18) := rfl

@[simp] theorem admits_pxLiteral (g r b a : BitVec 8) :
    (Ctx.pixel green red blue alpha dist).admits (.pxLiteral g r b a) =
      (validCode green && validCode red && validCode blue && validCode alpha &&
        hasSymbol green g.toNat && hasSymbol red r.toNat && hasSymbol blue b.toNat && hasSymbol alpha a.toNat) := rfl
@[simp] theorem admits_pxBackref (g le d de : Nat) :
    (Ctx.pixel green red blue alpha dist).admits (.pxBackref g le d de) =
      (validCode green && validCode dist && hasSymbol green g && hasSymbol dist d) := rfl
@[simp] theorem admits_pxCache (g : Nat) :
    (Ctx.pixel green red blue alpha dist).admits (.pxCache g) = (validCode green && hasSymbol green g) := rfl

end

/-! ## Decoding what was encoded -/

section
variable {c : Ctx} {i : Instr} {rd : Window} {off : Nat}

/-- The window begins with 3-bit lengths exactly when they are what it reads as, one after another (R87). -/
theorem startsWith_lengths_iff {lens : List (BitVec 3)} :
    startsWith rd off (lens.flatMap fun l => bitsOf 3 l.toNat) ↔
      ((List.range lens.length).map fun i => fieldAt rd (off + 3 * i) 3) = lens := by
  induction lens generalizing off with
  | nil => simp
  | cons l ls ih =>
    simp [ih, List.range_succ_eq_map, Function.comp_def, Nat.mul_add, Nat.add_assoc, Nat.add_comm 3]

/-- The bits of a present symbol decode to it and take their length (R198). -/
theorem decodeSymbol_of_startsWith {L : Code} {s : Nat} (hL : validCode L = true) (hs : hasSymbol L s = true)
    (h : startsWith rd off (encodeSymbol L s)) : decodeSymbol L rd off = some (s, symbolBits L s) :=
  (decodeSymbol_eq_some_iff hL).2 ⟨hs, rfl, h⟩

theorem decodeXform_of_startsWith (ha : Ctx.xform.admits i = true) (h : startsWith rd 0 (encode .xform i)) :
    decodeXform rd = i := by
  cases i with
  | xformEnd | xformSubgreen => simp at h; simp [decodeXform, bitsAt, h]
  | xformPred | xformXcolor | xformCindex => simp at h; simp [decodeXform, bitsAt, h]
  | _ => cases ha

theorem decodeHcode_of_startsWith (hwf : i.wf = true) (ha : Ctx.hcode.admits i = true)
    (h : startsWith rd 0 (encode .hcode i)) : decodeHcode rd = i := by
  cases i with
  | hcodeS1b1 | hcodeS1b8 | hcodeS2b1 | hcodeS2b8 => simp at h; simp [decodeHcode, h]
  | hcodeNormal k lens =>
    have hlen : lens.length = k.toNat + 4 := by simpa [Instr.wf] using hwf
    simp [startsWith_lengths_iff, hlen] at h
    obtain ⟨hform, hk, hlens⟩ := h
    rw [decodeHcode, hform, ← fieldAt_toNat rd 1 4, hk]
    simp [hlens]
  | _ => cases ha

theorem decodeMaxsym_of_startsWith (hwf : i.wf = true) (ha : Ctx.maxsym.admits i = true)
    (h : startsWith rd 0 (encode .maxsym i)) : decodeMaxsym rd = i := by
  cases i with
  | maxsymOff => simp at h; simp [decodeMaxsym, h]
  | maxsymOn n m =>
    have hm : m < 2 ^ (2 + 2 * n.toNat) := by simpa [Instr.wf] using hwf
    simp [startsWith_bitsOf_iff hm] at h
    obtain ⟨hform, hn, hval⟩ := h
    rw [decodeMaxsym, hform, ← fieldAt_toNat rd 1 3, hn]
    simp [hval]
  | _ => cases ha

theorem decodeToken_of_startsWith {cl : Code} (ha : (Ctx.token cl).admits i = true)
    (h : startsWith rd 0 (encode (.token cl) i)) : decodeToken cl rd = .ok i := by
  cases i with
  | clLit tok =>
    simp at ha
    simp at h
    simp [decodeToken, decodeSymbol_of_startsWith ha.1.1 ha.2 h, tok.isLt]
  | clRep16 | clZero17 | clZero18 =>
    simp at ha
    simp at h
    simp [decodeToken, decodeSymbol_of_startsWith ha.1.1 ha.2 h.1, h.2]
  | _ => cases ha

theorem decodePixel_of_startsWith {green red blue alpha dist : Code} (hwf : i.wf = true)
    (ha : (Ctx.pixel green red blue alpha dist).admits i = true)
    (h : startsWith rd 0 (encode (.pixel green red blue alpha dist) i)) :
    decodePixel green red blue alpha dist rd = .ok i := by
  cases i with
  | pxLiteral g r b a =>
    simp [and_assoc] at ha
    obtain ⟨hgreen, hred, hblue, halpha, hg, hr, hb, ha⟩ := ha
    simp at h
    obtain ⟨hgs, hrs, hbs, has⟩ := h
    simp [decodePixel, decodeLiteral, decodeSymbol_of_startsWith hgreen hg hgs, decodeSymbol_of_startsWith hred hr hrs,
      decodeSymbol_of_startsWith hblue hb hbs, decodeSymbol_of_startsWith halpha ha has, g.isLt]
  | pxBackref g le d de =>
    simp [and_assoc] at ha
    obtain ⟨hgreen, hdist, hg, hd⟩ := ha
    simp [Instr.wf, and_assoc] at hwf
    obtain ⟨hlow, hhigh, hle, -, hde⟩ := hwf
    simp [startsWith_bitsOf_iff hle, startsWith_bitsOf_iff hde] at h
    obtain ⟨hgs, hles, hds, hdes⟩ := h
    simp [decodePixel, decodeBackref, decodeSymbol_of_startsWith hgreen hg hgs, Nat.not_lt.2 hlow, hhigh,
      decodeSymbol_of_startsWith hdist hd hds, hles, hdes]
  | pxCache g =>
    simp at ha
    simp [Instr.wf] at hwf
    simp at h
    have hnot : ¬ g < 256 ∧ ¬ g < 280 := by omega
    simp [decodePixel, decodeSymbol_of_startsWith ha.1 ha.2 h, hnot]
  | _ => cases ha

end

/-- Settles O1, context by context. -/
theorem decodeEncodeAgree : Obligations.DecodeEncodeAgree := by
  intro c i rd hwf ha h
  cases c with
  | header =>
    cases i with
    | hdr => simpa [decode, and_assoc] using h
    | _ => cases ha
  | xform => exact congrArg _ (decodeXform_of_startsWith ha h)
  | ccache =>
    cases i with
    | ccacheOff | ccacheOn => simp at h; simp [decode, h]
    | _ => cases ha
  | metaBit =>
    cases i with
    | metaOff | metaOn => simp at h; simp [decode, h]
    | _ => cases ha
  | hcode => exact congrArg _ (decodeHcode_of_startsWith hwf ha h)
  | maxsym => exact congrArg _ (decodeMaxsym_of_startsWith hwf ha h)
  | token cl => exact decodeToken_of_startsWith ha h
  | pixel => exact decodePixel_of_startsWith hwf ha h

end Sys2Proof
end

section
/-! PROOFS, family 30_encoding: the bits at the cursor are the encoding of the element decoded, and it consumes exactly
those (O6). -/

namespace Sys2Proof
open Machine (startsWith)

/-! ## What the decoder gives is well formed and admitted, and its encoding stands there -/

/-- A valid code of at most `A` symbols (R94). -/
def CodeOver (A : Nat) (L : Code) : Prop := validCode L = true ∧ L.length ≤ A

/-- The codes of a context are valid and over their alphabets (R94). -/
def Ctx.codesFit : Ctx → Prop
  | .token cl => validCode cl = true ∧ cl.length = 19
  | .pixel green red blue alpha dist =>
    CodeOver 2328 green ∧ CodeOver 256 red ∧ CodeOver 256 blue ∧ CodeOver 256 alpha ∧ CodeOver 40 dist
  | .header | .xform | .ccache | .metaBit | .hcode | .maxsym => True

/-- `i` is an element of the context and its bits stand at the cursor. -/
structure StandsAt (c : Ctx) (rd : Window) (i : Instr) : Prop where
  wf : i.wf = true
  admitted : c.admits i = true
  bits : startsWith rd 0 (encode c i)

section
variable {c : Ctx} {i : Instr} {rd : Window} {off : Nat}

@[simp] theorem startsWith_bitsOf_bitsAt (rd : Window) (off n : Nat) : startsWith rd off (bitsOf n (bitsAt rd off n)) :=
  (startsWith_bitsOf_iff (bitsAt_lt rd off n)).2 rfl

theorem lt_length_of_hasSymbol {L : Code} {s : Nat} (hs : hasSymbol L s = true) : s < L.length := by
  by_contra h
  exact hasSymbol_iff.1 hs (List.getD_eq_default _ _ (Nat.not_lt.1 h))

/-- A symbol decoded is one of its code's, and its bits stand where it was read. -/
theorem CodeOver.decoded {A : Nat} {L : Code} {s n : Nat} (hL : CodeOver A L)
    (h : decodeSymbol L rd off = some (s, n)) :
    s < A ∧ hasSymbol L s = true ∧ n = symbolBits L s ∧ startsWith rd off (encodeSymbol L s) := by
  have hs := (decodeSymbol_eq_some_iff hL.1).1 h
  exact ⟨(lt_length_of_hasSymbol hs.1).trans_le hL.2, hs⟩

theorem decodeXform_standsAt (rd : Window) : StandsAt .xform rd (decodeXform rd) := by
  unfold decodeXform
  split_ifs with hform
  · have htype : bitsAt rd 1 2 = (rd 1).toNat + 2 * (rd 2).toNat := rfl
    rw [htype]
    cases h1 : rd 1 <;> cases h2 : rd 2 <;> exact ⟨rfl, rfl, by simp [*]⟩
  · exact ⟨rfl, rfl, by simpa using hform⟩

theorem decodeHcode_standsAt (rd : Window) : StandsAt .hcode rd (decodeHcode rd) := by
  unfold decodeHcode
  split_ifs with hform
  · split <;> exact ⟨rfl, rfl, by simp [*]⟩
  · exact ⟨by simp [Instr.wf, fieldAt_toNat], rfl, by simp [*, startsWith_lengths_iff]⟩

theorem decodeMaxsym_standsAt (rd : Window) : StandsAt .maxsym rd (decodeMaxsym rd) := by
  unfold decodeMaxsym
  split_ifs with hform
  · refine ⟨?_, rfl, ?_⟩
    · simpa [Instr.wf, fieldAt_toNat] using bitsAt_lt rd 4 _
    · simp [hform, fieldAt_toNat]
  · exact ⟨rfl, rfl, by simpa using hform⟩

theorem decodeToken_standsAt {cl : Code} (hcl : validCode cl = true) (hlen : cl.length = 19)
    (h : decodeToken cl rd = .ok i) : StandsAt (.token cl) rd i := by
  unfold decodeToken at h
  split at h
  · cases h
  next tok n hdec =>
    obtain ⟨hlt, hsym, rfl, hbits⟩ := CodeOver.decoded ⟨hcl, hlen.le⟩ hdec
    split_ifs at h with hlit h16 h17 <;> cases h
    · have htok : (BitVec.ofNat 4 tok).toNat = tok := by simpa using hlit
      exact ⟨rfl, by simp [hcl, hlen, htok, hsym], by simpa [htok] using hbits⟩
    · subst h16
      exact ⟨rfl, by simp [hcl, hlen, hsym], by simp [hbits, fieldAt_toNat]⟩
    · subst h17
      exact ⟨rfl, by simp [hcl, hlen, hsym], by simp [hbits, fieldAt_toNat]⟩
    · obtain rfl : tok = 18 := by omega
      exact ⟨rfl, by simp [hcl, hlen, hsym], by simp [hbits, fieldAt_toNat]⟩

theorem decodeLiteral_standsAt {green red blue alpha dist : Code} {g : Nat}
    (hfit : (Ctx.pixel green red blue alpha dist).codesFit) (hg : g < 256) (hgreen : hasSymbol green g = true)
    (hbits : startsWith rd 0 (encodeSymbol green g))
    (h : decodeLiteral red blue alpha rd g (symbolBits green g) = .ok i) :
    StandsAt (.pixel green red blue alpha dist) rd i := by
  obtain ⟨hG, hR, hB, hA, -⟩ := hfit
  unfold decodeLiteral at h
  split at h
  · cases h
  next r nr hr =>
    split at h
    · cases h
    next b nb hb =>
      split at h
      · cases h
      next a na ha =>
        cases h
        obtain ⟨hrlt, hred, rfl, hrbits⟩ := hR.decoded hr
        obtain ⟨hblt, hblue, rfl, hbbits⟩ := hB.decoded hb
        obtain ⟨halt, halpha, -, habits⟩ := hA.decoded ha
        exact ⟨rfl, by simp [hG.1, hR.1, hB.1, hA.1, Nat.mod_eq_of_lt, *], by simp [Nat.mod_eq_of_lt, *]⟩

theorem decodeBackref_standsAt {green red blue alpha dist : Code} {g : Nat}
    (hfit : (Ctx.pixel green red blue alpha dist).codesFit) (hlow : ¬ g < 256) (hhigh : g < 280)
    (hgreen : hasSymbol green g = true) (hbits : startsWith rd 0 (encodeSymbol green g))
    (h : decodeBackref dist rd g (symbolBits green g) = .ok i) :
    StandsAt (.pixel green red blue alpha dist) rd i := by
  obtain ⟨hG, -, -, -, hD⟩ := hfit
  unfold decodeBackref at h
  dsimp only at h
  split at h
  · cases h
  next d nd hdec =>
    cases h
    obtain ⟨hdlt, hdist, rfl, hdbits⟩ := hD.decoded hdec
    refine ⟨?_, by simp [hG.1, hD.1, hgreen, hdist], by simp [hbits, hdbits]⟩
    simp [Instr.wf, Nat.not_lt.1 hlow, hhigh, hdlt, bitsAt_lt]

theorem decodePixel_standsAt {green red blue alpha dist : Code}
    (hfit : (Ctx.pixel green red blue alpha dist).codesFit) (h : decodePixel green red blue alpha dist rd = .ok i) :
    StandsAt (.pixel green red blue alpha dist) rd i := by
  have hG := hfit.1
  unfold decodePixel at h
  split at h
  · cases h
  next g n hg =>
    obtain ⟨hlt, hgreen, rfl, hbits⟩ := hG.decoded hg
    split_ifs at h with hlow hhigh
    · exact decodeLiteral_standsAt hfit hlow hgreen hbits h
    · exact decodeBackref_standsAt hfit hlow hhigh hgreen hbits h
    · cases h
      exact ⟨by simp [Instr.wf]; omega, by simp [hgreen, hG.1], hbits⟩

/-- What the decoder gives with codes over their alphabets (R82, R94). -/
theorem standsAt_of_decode (hfit : c.codesFit) (h : decode c rd = .ok i) : StandsAt c rd i := by
  cases c with
  | header => cases h; exact ⟨rfl, rfl, by simp [fieldAt_toNat]⟩
  | xform => cases h; exact decodeXform_standsAt rd
  | ccache =>
    simp only [decode] at h
    split_ifs at h with hform <;> cases h <;> exact ⟨rfl, rfl, by simpa using hform⟩
  | metaBit =>
    simp only [decode] at h
    split_ifs at h with hform <;> cases h <;> exact ⟨rfl, rfl, by simpa using hform⟩
  | hcode => cases h; exact decodeHcode_standsAt rd
  | maxsym => cases h; exact decodeMaxsym_standsAt rd
  | token cl => exact decodeToken_standsAt hfit.1 hfit.2 h
  | pixel => exact decodePixel_standsAt hfit h

end

/-! ## The codes in force (R94) -/

namespace Machine

section
variable {c : Ctx} {i : Instr} {s t : State} {m : Img}

/-- Every code of an image is valid and has its alphabet's size (R94, R156). -/
theorem codeOver_of_code {gi j : Nat} {L : Code} (h : codesOk m = true) (hj : j < 5) (hL : m.code gi j = some L) :
    CodeOver (alphabetSize m.cc.bits j) L := by
  simp only [codesOk, Bool.and_eq_true, List.all_eq_true, beq_iff_eq] at h
  have hmem : (L, 5 * gi + j) ∈ m.codes.zipIdx := List.mem_zipIdx_iff_getElem?.2 hL
  obtain ⟨hvalid, hlen⟩ := h.2 _ hmem
  rw [Nat.mul_add_mod, Nat.mod_eq_of_lt hj] at hlen
  exact ⟨hvalid, hlen.le⟩

/-- The greatest alphabet is that of green with a cache of 11 bits (R94). -/
theorem alphabetSize_zero_le {bits : Nat} (h : bits ≤ 11) : alphabetSize bits 0 ≤ 2328 := by
  have hpow : 2 ^ bits ≤ 2 ^ 11 := Nat.pow_le_pow_right (by decide) h
  unfold alphabetSize cacheSize
  split_ifs <;> omega

/-- The codes in force at a pixel are those of one group (R221). -/
theorem pixelCodes_eq_some {green red blue alpha dist : Code}
    (h : pixelCodes m = some (green, red, blue, alpha, dist)) :
    ∃ gi, m.code gi 0 = some green ∧ m.code gi 1 = some red ∧ m.code gi 2 = some blue ∧ m.code gi 3 = some alpha ∧
      m.code gi 4 = some dist := by
  unfold pixelCodes at h
  split at h
  · cases h
  next gi hgi =>
    split at h
    next h0 h1 h2 h3 h4 => cases h; exact ⟨gi, h0, h1, h2, h3, h4⟩
    next => cases h

theorem fetchCtx_token {cl : Code} (h : fetchCtx s = some (.token cl)) :
    ∃ lens left prev, s.stage = .token cl lens left prev := by
  unfold fetchCtx at h
  cases hst : s.stage <;> simp only [hst] at h
  case token => cases h; exact ⟨_, _, _, rfl⟩
  case pixel =>
    split at h
    · cases h
    · split at h <;> cases h
  all_goals cases h

theorem fetchCtx_pixel {green red blue alpha dist : Code} (h : fetchCtx s = some (.pixel green red blue alpha dist)) :
    s.stage = .pixel ∧ ∃ m, curImg s = some m ∧ pixelCodes m = some (green, red, blue, alpha, dist) := by
  unfold fetchCtx at h
  cases hst : s.stage <;> simp only [hst] at h
  case pixel =>
    split at h
    · cases h
    next m hm =>
      split at h
      · cases h
      next hcodes => cases h; exact ⟨rfl, m, hm, hcodes⟩
  all_goals cases h

/-- While a code is read an image is being decoded (R82). -/
theorem exists_curImg_of_readsCode (h : positionOk s = true) (hst : readsCode s.stage = true) :
    ∃ m, curImg s = some m := by
  refine Option.ne_none_iff_exists'.1 fun hnone => ?_
  have hno : s.nested = none ∧ s.img0 = none := by
    cases hn : s.nested <;> simp_all [curImg]
  obtain ⟨-, hidle, -⟩ | ⟨-, hhdr, -⟩ | ⟨-, hxf⟩ := (positionOk_noImage_iff hno.1 hno.2).1 h
  · simp [hidle, readsCode] at hst
  · simp [hhdr, readsCode] at hst
  · simp [hxf, readsCode] at hst

/-- With the invariant the codes in force fit their alphabets (R82, R94). -/
theorem codesFit_of_fetchCtx (hs : Inv s) (h : fetchCtx s = some c) : c.codesFit := by
  obtain ⟨-, -, -, hpos, -⟩ := hs
  cases c with
  | token cl =>
    obtain ⟨lens, left, prev, hst⟩ := fetchCtx_token h
    obtain ⟨m, hm⟩ := exists_curImg_of_readsCode hpos (by rw [hst]; rfl)
    obtain ⟨-, hok, -⟩ := positionOk_curImg hpos hm
    simp only [hst, stageOk, Bool.and_eq_true, beq_iff_eq] at hok
    obtain ⟨⟨⟨⟨-, hvalid⟩, hlen⟩, -⟩, -⟩ := hok
    exact ⟨hvalid, hlen⟩
  | pixel green red blue alpha dist =>
    obtain ⟨-, m, hm, hcodes⟩ := fetchCtx_pixel h
    obtain ⟨himg, -⟩ := positionOk_curImg hpos hm
    obtain ⟨hbits, -, -, -, -, hok, -⟩ := (imgOk_iff m).1 himg
    obtain ⟨gi, h0, h1, h2, h3, h4⟩ := pixelCodes_eq_some hcodes
    have hgreen := codeOver_of_code hok (by decide) h0
    exact ⟨⟨hgreen.1, hgreen.2.trans (alphabetSize_zero_le hbits)⟩, codeOver_of_code hok (by decide) h1,
      codeOver_of_code hok (by decide) h2, codeOver_of_code hok (by decide) h3, codeOver_of_code hok (by decide) h4⟩
  | _ => trivial

/-! ## What an element consumes -/

theorem finishCode_pos {L : Code} (h : finishCode L m s = .next t) (ht : t.phase ≠ .error) : t.pos = s.pos := by
  obtain ⟨-, rfl⟩ | ⟨-, -, rfl⟩ | ⟨-, -, rfl⟩ := finishCode_next.1 h
  · exact absurd rfl ht
  · exact absurd rfl ht
  · simp [pushCode_eq]

theorem nextToken_pos {cl : Code} {lens : List Nat} {left prev : Nat} (h : nextToken cl lens left prev m s = .next t)
    (ht : t.phase ≠ .error) : t.pos = s.pos := by
  obtain ⟨-, -, rfl⟩ | ⟨-, h⟩ := nextToken_next.1 h
  · rfl
  · exact finishCode_pos h ht

theorem runToken_pos {cl : Code} {lens : List Nat} {left prev tok eb rep : Nat} {len : Nat → Nat}
    (hst : s.stage = .token cl lens left prev) (h : runToken tok eb rep len s = .next t) (ht : t.phase ≠ .error) :
    t.pos = s.pos + (symbolBits cl tok + eb) := by
  obtain ⟨cl', lens', left', prev', m, hst', -, ⟨-, rfl⟩ | ⟨-, h⟩⟩ := runToken_next.1 h
  · exact absurd rfl ht
  · obtain ⟨rfl, -⟩ := Stage.token.inj (hst.symm.trans hst')
    exact nextToken_pos h ht

theorem finishElement_pos (h : finishElement m s = .next t) (ht : t.phase ≠ .error) : t.pos = s.pos := by
  obtain ⟨-, rfl⟩ | ⟨-, -, rfl⟩ | ⟨-, -, rfl⟩ := finishElement_next.1 h
  · exact absurd rfl ht
  · simp
  · simp

theorem simpleCode_pos {xs : List Nat} {n : Nat} (h : simpleCode xs n s = .next t) (ht : t.phase ≠ .error) :
    t.pos = s.pos + n := by
  obtain ⟨-, m, -, h⟩ := simpleCode_next.1 h
  exact finishCode_pos h ht

/-- A transform element that opens a sub-image. -/
theorem beginXform_pos {k : XKind} {u : SubUse} {xs ys n : Nat} {body : State → Out}
    (hbody : body { s with seen := markSeen s.seen k } =
      openNested u xs ys (advance n { s with seen := markSeen s.seen k }))
    (h : beginXform k body s = .next t) (ht : t.phase ≠ .error) : t.pos = s.pos + n := by
  obtain ⟨-, ⟨-, rfl⟩ | ⟨-, h⟩⟩ := beginXform_next.1 h
  · exact absurd rfl ht
  · rw [hbody, openNested_next] at h
    obtain ⟨-, rfl⟩ := h
    rfl

theorem execHdr_pos {magic : BitVec 8} {w h : BitVec 14} {a : BitVec 1} {v : BitVec 3}
    (hx : execHdr magic w h a v s = .next t) (ht : t.phase ≠ .error) : t.pos = s.pos + 40 := by
  simp only [execHdr, whenStage_next] at hx
  obtain ⟨-, hx⟩ := hx
  split_ifs at hx
  · exact absurd (phase_of_abort hx) ht
  · exact absurd (phase_of_abort hx) ht
  · exact absurd (phase_of_abort hx) ht
  · exact absurd (phase_of_abort hx) ht
  · cases hx; rfl

theorem execXformEnd_pos (hx : execXformEnd s = .next t) : t.pos = s.pos + 1 := by
  simp only [execXformEnd, whenStage_next] at hx
  obtain ⟨-, hx⟩ := hx
  split_ifs at hx
  cases hx; rfl

theorem execXformPred_pos {b : BitVec 3} (hx : execXformPred b s = .next t) (ht : t.phase ≠ .error) :
    t.pos = s.pos + 6 := by
  unfold execXformPred at hx
  exact beginXform_pos rfl hx ht

theorem execXformXcolor_pos {b : BitVec 3} (hx : execXformXcolor b s = .next t) (ht : t.phase ≠ .error) :
    t.pos = s.pos + 6 := by
  unfold execXformXcolor at hx
  exact beginXform_pos rfl hx ht

theorem execXformCindex_pos {n : BitVec 8} (hx : execXformCindex n s = .next t) (ht : t.phase ≠ .error) :
    t.pos = s.pos + 11 := by
  unfold execXformCindex at hx
  exact beginXform_pos rfl hx ht

theorem execXformSubgreen_pos (hx : execXformSubgreen s = .next t) (ht : t.phase ≠ .error) : t.pos = s.pos + 3 := by
  obtain ⟨-, ⟨-, rfl⟩ | ⟨-, hx⟩⟩ := beginXform_next.1 hx
  · exact absurd rfl ht
  · cases hx; rfl

theorem execCcacheOff_pos (hx : execCcacheOff s = .next t) : t.pos = s.pos + 1 := by
  simp only [execCcacheOff, whenStage_next, withImg_next] at hx
  obtain ⟨-, m, -, hx⟩ := hx
  cases hx
  simp [afterCache_eq]

theorem execCcacheOn_pos {k : BitVec 4} (hx : execCcacheOn k s = .next t) (ht : t.phase ≠ .error) :
    t.pos = s.pos + 5 := by
  simp only [execCcacheOn, whenStage_next, withImg_next] at hx
  obtain ⟨-, m, -, hx⟩ := hx
  split_ifs at hx
  · exact absurd (phase_of_abort hx) ht
  · cases hx
    simp [afterCache_eq]

theorem execMetaOff_pos (hx : execMetaOff s = .next t) : t.pos = s.pos + 1 := by
  simp only [execMetaOff, whenStage_next] at hx
  obtain ⟨-, hx⟩ := hx
  split at hx <;> cases hx
  rfl

theorem execMetaOn_pos {b : BitVec 3} (hx : execMetaOn b s = .next t) : t.pos = s.pos + 4 := by
  simp only [execMetaOn, whenStage_next] at hx
  obtain ⟨-, hx⟩ := hx
  split at hx
  · obtain ⟨-, rfl⟩ := openNested_next.1 hx
    rfl
  · cases hx

theorem execHcodeNormal_pos {k : BitVec 4} {lens : List (BitVec 3)} (hx : execHcodeNormal k lens s = .next t)
    (ht : t.phase ≠ .error) : t.pos = s.pos + (5 + 3 * (k.toNat + 4)) := by
  simp only [execHcodeNormal, whenStage_next, withImg_next] at hx
  obtain ⟨-, m, -, hx⟩ := hx
  split_ifs at hx
  · cases hx; rfl
  · exact absurd (phase_of_abort hx) ht

theorem execMaxsymOff_pos (hx : execMaxsymOff s = .next t) : t.pos = s.pos + 1 := by
  obtain ⟨cl, m, -, -, hx⟩ := atMaxsym_next.1 hx
  cases hx; rfl

theorem execMaxsymOn_pos {n : BitVec 3} {k : Nat} (hx : execMaxsymOn n k s = .next t) (ht : t.phase ≠ .error) :
    t.pos = s.pos + (4 + (2 + 2 * n.toNat)) := by
  obtain ⟨cl, m, -, -, hx⟩ := atMaxsym_next.1 hx
  split_ifs at hx
  · exact absurd (phase_of_abort hx) ht
  · cases hx
    rw [← Nat.add_assoc 4 2]; rfl

theorem execClLit_pos {cl : Code} {lens : List Nat} {left prev : Nat} {tok : BitVec 4}
    (hst : s.stage = .token cl lens left prev) (hx : execClLit tok s = .next t) (ht : t.phase ≠ .error) :
    t.pos = s.pos + symbolBits cl tok.toNat := by
  obtain ⟨cl', lens', left', prev', m, hst', -, hx⟩ := atToken_next.1 hx
  obtain ⟨rfl, -⟩ := Stage.token.inj (hst.symm.trans hst')
  exact nextToken_pos hx ht

section
variable {green red blue alpha dist : Code} (hm : curImg s = some m)
  (hcodes : pixelCodes m = some (green, red, blue, alpha, dist))
include hm hcodes

/-- A pixel element reads with the codes in force (R221). -/
theorem atPixel_codes {k : Img → Code × Code × Code × Code × Code → Out} (h : atPixel s k = .next t) :
    k m (green, red, blue, alpha, dist) = .next t := by
  obtain ⟨-, m', cs, hm', -, hcs, h⟩ := atPixel_next.1 h
  obtain rfl : m = m' := Option.some.inj (hm.symm.trans hm')
  obtain rfl := Option.some.inj (hcodes.symm.trans hcs)
  exact h

theorem execPxLiteral_pos {g r b a : BitVec 8} (hx : execPxLiteral g r b a s = .next t) (ht : t.phase ≠ .error) :
    t.pos = s.pos + (symbolBits green g.toNat + symbolBits red r.toNat + symbolBits blue b.toNat
      + symbolBits alpha a.toNat) :=
  finishElement_pos (atPixel_codes hm hcodes hx) ht

theorem execPxBackref_pos {g le d de : Nat} (hx : execPxBackref g le d de s = .next t) (ht : t.phase ≠ .error) :
    t.pos = s.pos + (symbolBits green g + extraBits (g - 256) + symbolBits dist d + extraBits d) := by
  have hx := atPixel_codes hm hcodes hx
  dsimp only at hx
  split_ifs at hx
  · exact absurd (phase_of_abort hx) ht
  · exact absurd (phase_of_abort hx) ht
  · exact finishElement_pos hx ht

theorem execPxCache_pos {g : Nat} (hx : execPxCache g s = .next t) (ht : t.phase ≠ .error) :
    t.pos = s.pos + symbolBits green g :=
  finishElement_pos (atPixel_codes hm hcodes hx) ht

end

/-- An element that does not end the job moves the cursor by the bits R93 gives it. -/
theorem exec_pos (hc : fetchCtx s = some c) (ha : c.admits i = true) (hx : exec i s = .next t)
    (ht : t.phase ≠ .error) : t.pos = s.pos + elementBits c i := by
  cases c with
  | header =>
    cases i with
    | hdr => exact execHdr_pos hx ht
    | _ => cases ha
  | xform =>
    cases i with
    | xformEnd => exact execXformEnd_pos hx
    | xformPred => exact execXformPred_pos hx ht
    | xformXcolor => exact execXformXcolor_pos hx ht
    | xformCindex => exact execXformCindex_pos hx ht
    | xformSubgreen => exact execXformSubgreen_pos hx ht
    | _ => cases ha
  | ccache =>
    cases i with
    | ccacheOff => exact execCcacheOff_pos hx
    | ccacheOn => exact execCcacheOn_pos hx ht
    | _ => cases ha
  | metaBit =>
    cases i with
    | metaOff => exact execMetaOff_pos hx
    | metaOn => exact execMetaOn_pos hx
    | _ => cases ha
  | hcode =>
    cases i with
    | hcodeS1b1 | hcodeS1b8 | hcodeS2b1 | hcodeS2b8 => exact simpleCode_pos hx ht
    | hcodeNormal => exact execHcodeNormal_pos hx ht
    | _ => cases ha
  | maxsym =>
    cases i with
    | maxsymOff => exact execMaxsymOff_pos hx
    | maxsymOn => exact execMaxsymOn_pos hx ht
    | _ => cases ha
  | token cl =>
    obtain ⟨lens, left, prev, hst⟩ := fetchCtx_token hc
    cases i with
    | clLit => exact execClLit_pos hst hx ht
    | clRep16 | clZero17 | clZero18 => exact runToken_pos hst hx ht
    | _ => cases ha
  | pixel =>
    obtain ⟨-, m, hm, hcodes⟩ := fetchCtx_pixel hc
    cases i with
    | pxLiteral => exact execPxLiteral_pos hm hcodes hx ht
    | pxBackref => exact execPxBackref_pos hm hcodes hx ht
    | pxCache => exact execPxCache_pos hm hcodes hx ht
    | _ => cases ha

end

end Machine

/-- An encoding has the bits R93 gives its element. -/
theorem encode_length {c : Ctx} {i : Instr} (hwf : i.wf = true) (ha : c.admits i = true) :
    (encode c i).length = elementBits c i := by
  cases i with
  | hdr => exact Laws.ElementLength.hdr _ _ _ _ _ c hwf ha
  | xformEnd => exact Laws.ElementLength.xformEnd c hwf ha
  | xformPred => exact Laws.ElementLength.xformPred _ c hwf ha
  | xformXcolor => exact Laws.ElementLength.xformXcolor _ c hwf ha
  | xformSubgreen => exact Laws.ElementLength.xformSubgreen c hwf ha
  | xformCindex => exact Laws.ElementLength.xformCindex _ c hwf ha
  | ccacheOff => exact Laws.ElementLength.ccacheOff c hwf ha
  | ccacheOn => exact Laws.ElementLength.ccacheOn _ c hwf ha
  | metaOff => exact Laws.ElementLength.metaOff c hwf ha
  | metaOn => exact Laws.ElementLength.metaOn _ c hwf ha
  | hcodeS1b1 => exact Laws.ElementLength.hcodeS1b1 _ c hwf ha
  | hcodeS1b8 => exact Laws.ElementLength.hcodeS1b8 _ c hwf ha
  | hcodeS2b1 => exact Laws.ElementLength.hcodeS2b1 _ _ c hwf ha
  | hcodeS2b8 => exact Laws.ElementLength.hcodeS2b8 _ _ c hwf ha
  | hcodeNormal => exact Laws.ElementLength.hcodeNormal _ _ c hwf ha
  | maxsymOff => exact Laws.ElementLength.maxsymOff c hwf ha
  | maxsymOn => exact Laws.ElementLength.maxsymOn _ _ c hwf ha
  | clLit => exact Laws.ElementLength.clLit _ c hwf ha
  | clRep16 => exact Laws.ElementLength.clRep16 _ c hwf ha
  | clZero17 => exact Laws.ElementLength.clZero17 _ c hwf ha
  | clZero18 => exact Laws.ElementLength.clZero18 _ c hwf ha
  | pxLiteral => exact Laws.ElementLength.pxLiteral _ _ _ _ c hwf ha
  | pxBackref => exact Laws.ElementLength.pxBackref _ _ _ _ c hwf ha
  | pxCache => exact Laws.ElementLength.pxCache _ c hwf ha
  | _ => cases c <;> cases ha

/-- Settles O6: the element decoded stands at the cursor, and its meaning consumes the bits of its encoding. -/
theorem consumesExactlyItsEncoding : Obligations.ConsumesExactlyItsEncoding := by
  intro s c i hs hc hdec
  obtain ⟨hwf, ha, hbits⟩ := standsAt_of_decode (Machine.codesFit_of_fetchCtx hs hc) hdec
  exact ⟨hbits, fun t hx ht => encode_length hwf ha ▸ Machine.exec_pos hc ha hx ht⟩

end Sys2Proof
end

section
/-! PROOFS, family 30_encoding: words written out from the encodings (O5), the bits the rules ignore (O60), and what a
step runs (O48). -/

namespace Sys2Proof.Machine

/-- Settles O5: each word evaluated. -/
theorem decodedWords : Obligations.DecodedWords := by
  refine ⟨?_, ?_, ?_, ?_, ?_, ?_, ?_, ?_, ?_, ?_, ?_, ?_, ?_, ?_, ?_⟩ <;> rfl

/-! ## What a step runs -/

section
variable {s : State} {c : Ctx} {i : Instr}

theorem runElement_eq (hc : fetchCtx s = some c) (hd : decode c (window s) = .ok i) : runElement s = exec i s := by
  simp [runElement, hc, hd]

/-- Where the image has pixels left and no batch is due the pixel loop reads an element (R220, R312). -/
theorem pixelMove_eq_runElement {m : Img} (hm : curImg s = some m) (hleft : m.pos < m.size)
    (hdue : (m.level0 && s.rowsEmitted + rowBatch ≤ s.rowsDone) = false) : pixelMove s = runElement s := by
  simp [pixelMove, hm, hleft, hdue]

theorem atElement_iff :
    atElement s = true ↔ s.host = [] ∧ s.ops = [] ∧ s.phase.running = true ∧ s.emit = .off ∧ s.stage ≠ .palette ∧
      s.stage ≠ .finish ∧ (s.stage = .pixel → ∃ m, curImg s = some m ∧ m.pos < m.size ∧
        (m.level0 && s.rowsEmitted + rowBatch ≤ s.rowsDone) = false) := by
  unfold atElement
  cases curImg s <;> simp [and_assoc, imp_iff_not_or]

/-- At an element's place the step reads it (R140). -/
theorem step_atElement (h : atElement s = true) : step s = runElement s := by
  obtain ⟨hhost, hops, hrun, he, hpal, hfin, hpix⟩ := atElement_iff.1 h
  have hseq : step s = Machine.sequence s := by simp [step_core hhost, coreMove, hops, hrun]
  rw [hseq, Machine.sequence, he]
  cases hst : s.stage with
  | pixel =>
    obtain ⟨m, hm, hleft, hdue⟩ := hpix hst
    exact pixelMove_eq_runElement hm hleft hdue
  | palette => exact absurd hst hpal
  | finish => exact absurd hst hfin
  | _ => rfl

end

/-- Settles O48: whose move it is, then the place of the element. -/
theorem stepRunsTheInstruction : Obligations.StepRunsTheInstruction := by
  intro s
  refine ⟨fun c i hat hc hd => ?_, fun i rest hhost hops => ?_, fun hhost hops hph => ?_, fun rest hhost => ?_⟩
  · rw [step_atElement hat, runElement_eq hc hd]
  · simp [step_core hhost, coreMove, hops]
  · have hrun : s.phase.running = false := by rcases hph with h | h | h <;> rw [h] <;> rfl
    simp [step_core hhost, coreMove, hops, hrun]
  · exact step_host hhost

/-! ## The bits the rules ignore (R96) -/

/-- A lookup in two lists that agree under `f` agrees under `f`, inside them and past their end. -/
theorem pixAt_congr {α : Type} (f : Word → α) {l l' : List Word} (h : l.map f = l'.map f) (i : Nat) :
    f (pixAt l i) = f (pixAt l' i) := by
  have hget : l[i]?.map f = l'[i]?.map f := by rw [← List.getElem?_map, ← List.getElem?_map, h]
  simp only [pixAt, List.getD_eq_getElem?_getD]
  cases hl : l[i]? <;> cases hl' : l'[i]? <;> simp_all

/-- A field inside a field is a field of the word. -/
theorem extractLsb'_congr {p q : Word} {start len lo n : Nat} (h : p.extractLsb' start len = q.extractLsb' start len)
    (hlo : start ≤ lo) (hn : lo + n ≤ start + len) : p.extractLsb' lo n = q.extractLsb' lo n := by
  ext j hj
  have hbit := congrArg (·.getLsbD (lo - start + j)) h
  have hin : lo - start + j < len := by omega
  have hat : start + (lo - start + j) = lo + j := by omega
  simpa [hin, hat] using hbit

section
variable {data data' : List Word} (h : data.map (·.extractLsb' 8 4) = data'.map (·.extractLsb' 8 4))
include h

/-- The mode is bits 11:8 of the tile's pixel (R268). -/
theorem predMode_congr (w bits x y : Nat) : predMode data w bits x y = predMode data' w bits x y :=
  congrArg BitVec.toNat (pixAt_congr (·.extractLsb' 8 4) h (tileIndex w bits x y))

theorem predictNext_congr (w bits : Nat) (out : List Word) :
    predictNext w bits data out = predictNext w bits data' out := by
  simp only [predictNext, predMode_congr h]

/-- The inverse predictor reads the sub-image through its modes alone (R267). -/
theorem invPredFrom_congr (w bits : Nat) (res out : List Word) :
    invPredFrom w bits data res out = invPredFrom w bits data' res out := by
  induction res generalizing out with
  | nil => rfl
  | cons r rs ih => rw [invPredFrom, invPredFrom, predictNext_congr h, ih]

theorem execInvPred_congr (bits : Nat) (s : State) : execInvPred bits data s = execInvPred bits data' s := by
  simp only [execInvPred, invPred, invPredFrom_congr h]

end

/-- A cross-colour element is read through its low three channels (R284). -/
theorem xcolorPixel_congr (p : Word) {e f : Word} (h : e.extractLsb' 0 24 = f.extractLsb' 0 24) :
    xcolorPixel p e = xcolorPixel p f := by
  have hb : chB e = chB f := extractLsb'_congr h (by decide) (by decide)
  have hg : chG e = chG f := extractLsb'_congr h (by decide) (by decide)
  have hr : chR e = chR f := extractLsb'_congr h (by decide) (by decide)
  simp only [xcolorPixel, hb, hg, hr]

/-- A packed pixel is read through green (R289). -/
theorem invCindex_congr (pw w h wb : Nat) (pal : List Word) {pix pix' : List Word} (hpix : pix.map chG = pix'.map chG) :
    invCindex pw w h wb pal pix = invCindex pw w h wb pal pix' := by
  simp only [invCindex, pixAt_congr chG hpix]

/-- Settles O60, one field after another. -/
theorem ignoredBits : Obligations.IgnoredBits := by
  refine ⟨fun p q l t tr tl h => ?_, fun s bits data data' h => ⟨fun w => predMode_congr h w bits, execInvPred_congr h bits s⟩,
    fun p e f h => xcolorPixel_congr p h, fun p q h => ?_,
    fun pw w h wb pal pix pix' hpix => invCindex_congr pw w h wb pal hpix, fun L x hx => ?_⟩
  · rw [decodePred, decodePred, h]
  · rw [groupIndex, groupIndex, h]
  · exact List.set_eq_of_length_le hx

end Sys2Proof.Machine
end

section
/-! PROOFS, family 30_encoding: the alpha hint changes nothing else (O59; R96, R141, decision D8). -/

namespace Sys2Proof.Machine

/-! ## The fields beside the hint -/

section
variable (a : BitVec 1) (s : State)

@[simp] theorem withAlpha_stage : (withAlpha a s).stage = s.stage := rfl
@[simp] theorem withAlpha_img0 : (withAlpha a s).img0 = s.img0 := rfl
@[simp] theorem withAlpha_nested : (withAlpha a s).nested = s.nested := rfl
@[simp] theorem withAlpha_emit : (withAlpha a s).emit = s.emit := rfl
@[simp] theorem withAlpha_ops : (withAlpha a s).ops = s.ops := rfl
@[simp] theorem curImg_withAlpha : curImg (withAlpha a s) = curImg s := rfl
@[simp] theorem window_withAlpha : window (withAlpha a s) = window s := rfl
@[simp] theorem fetchCtx_withAlpha : fetchCtx (withAlpha a s) = fetchCtx s := rfl
@[simp] theorem selectedCode_withAlpha (c : CodeSel) : selectedCode c (withAlpha a s) = selectedCode c s := rfl

end

/-! ## States and outcomes that differ in the hint alone -/

section
variable {s : State} {a b : BitVec 1}

/-- The hint is bit 28 of INFO (R25). -/
theorem withAlpha_info_getLsbD (a : BitVec 1) (s : State) (k : Nat) :
    (withAlpha a s).info.getLsbD k = if k = 28 then a.getLsbD 0 else s.info.getLsbD k := by
  have happend : (withAlpha a s).info.getLsbD k =
      (s.info.extractLsb' 29 3 ++ a ++ s.info.extractLsb' 0 28).getLsbD k := rfl
  rw [happend, BitVec.getLsbD_append, BitVec.getLsbD_append, BitVec.getLsbD_extractLsb', BitVec.getLsbD_extractLsb']
  obtain hlow | rfl | hhigh := lt_trichotomy k 28
  · simp [hlow, hlow.ne]
  · simp
  · have hnot : ¬ k < 28 ∧ ¬ k - 28 < 1 ∧ 29 + (k - 28 - 1) = k := by omega
    rw [if_neg hnot.1, if_neg hnot.2.1, if_neg hhigh.ne', hnot.2.2, Bool.and_eq_right_iff_imp]
    intro hk
    have hlt := BitVec.lt_of_getLsbD hk
    exact decide_eq_true (by omega)

/-- Once the hint is set, INFO's other bits are all that is left of it. -/
theorem withAlpha_congr_info {x y : Word} (h : ∀ k, k ≠ 28 → x.getLsbD k = y.getLsbD k) :
    withAlpha a { s with info := x } = withAlpha a { s with info := y } := by
  have hinfo : (withAlpha a { s with info := x }).info = (withAlpha a { s with info := y }).info := by
    refine BitVec.eq_of_getLsbD_eq fun k _ => ?_
    rw [withAlpha_info_getLsbD, withAlpha_info_getLsbD]
    split_ifs with hk
    · rfl
    · exact h k hk
  exact congrArg (fun w => { withAlpha a s with info := w }) hinfo

theorem withAlpha_withAlpha (a b : BitVec 1) (s : State) : withAlpha a (withAlpha b s) = withAlpha a s :=
  withAlpha_congr_info (s := s) fun k hk => by rw [withAlpha_info_getLsbD, if_neg hk]

/-- Two INFO words of headers that differ in the hint alone differ in bit 28 alone (R25, R141). -/
theorem infoWord_getLsbD (w h : BitVec 14) (v : BitVec 3) {k : Nat} (hk : k ≠ 28) :
    (infoWord ⟨w.toNat + 1, h.toNat + 1, a, v⟩).getLsbD k = (infoWord ⟨w.toNat + 1, h.toNat + 1, b, v⟩).getLsbD k := by
  rw [infoWord_eq_append, infoWord_eq_append]
  simp only [BitVec.getLsbD_append]
  split_ifs with hw hh ha
  · rfl
  · rfl
  · omega
  · rfl

end

/-- Two outcomes whose next states differ in the hint alone. -/
def SameButAlpha (o o' : Out) : Prop := mapNext (withAlpha 0) o = mapNext (withAlpha 0) o'

/-- `o'` is `o` with the hint `a`: of a job that fails, whose HDR.ALPHA is left unspecified (R348), in INFO alone. -/
inductive CarriesHint (a : BitVec 1) : Out → Out → Prop
  | next (t : State) : CarriesHint a (.next t) (.next (withAlpha a t))
  | abort (k : Failure) (t : State) : CarriesHint a (abort k t) (abort k (withAlpha a t))
  | fault (r : Fault) : CarriesHint a (.fault r) (.fault r)
  | refused (r : Refusal) : CarriesHint a (.refused r) (.refused r)

section
variable {a : BitVec 1} {o o' : Out} {s t : State} {m : Img}

theorem CarriesHint.sameButAlpha (h : CarriesHint a o o') : SameButAlpha o' o := by
  cases h with
  | next t => exact congrArg Host.Outcome.next (withAlpha_withAlpha 0 a t)
  | abort k t => exact congrArg Host.Outcome.next (withAlpha_withAlpha 0 a (abortState k t))
  | fault | refused => rfl

/-- A job that goes on keeps the hint. -/
theorem CarriesHint.of_next (h : CarriesHint a (.next t) o') (ht : t.phase ≠ .error) : o' = .next (withAlpha a t) := by
  generalize ho : (Host.Outcome.next t : Out) = o at h
  cases h with
  | next t' => cases ho; rfl
  | abort k t' => exact absurd (phase_of_abort ho.symm) ht
  | fault | refused => cases ho

theorem CarriesHint.of_eq {t' : State} (h : t' = withAlpha a t) : CarriesHint a (.next t) (.next t') := h ▸ .next t

/-! ## The shared operations carry the hint -/

@[simp] theorem setCurImg_withAlpha : setCurImg m (withAlpha a s) = withAlpha a (setCurImg m s) := by
  unfold setCurImg
  rw [withAlpha_nested]
  cases s.nested <;> rfl

@[simp] theorem afterCache_withAlpha : afterCache m (withAlpha a s) = withAlpha a (afterCache m s) := by
  rw [afterCache_eq, afterCache_eq, setCurImg_withAlpha]; rfl

@[simp] theorem pushCode_withAlpha (L : Code) : pushCode L m (withAlpha a s) = withAlpha a (pushCode L m s) := by
  rw [pushCode_eq, pushCode_eq, setCurImg_withAlpha]; rfl

theorem CarriesHint.whenStage {ok : Bool} (h : CarriesHint a o o') :
    CarriesHint a (whenStage ok o) (whenStage ok o') := by
  cases ok
  · exact .refused _
  · exact h

theorem CarriesHint.ite {p : Prop} [Decidable p] {x x' : Out} (h : CarriesHint a o o') (hx : CarriesHint a x x') :
    CarriesHint a (if p then o else x) (if p then o' else x') := by
  split_ifs
  · exact h
  · exact hx

theorem CarriesHint.withImg {k k' : Img → Out} (h : ∀ m, CarriesHint a (k m) (k' m)) :
    CarriesHint a (withImg s k) (withImg (withAlpha a s) k') := by
  unfold Machine.withImg
  rw [curImg_withAlpha]
  cases curImg s with
  | none => exact .refused _
  | some m => exact h m

theorem CarriesHint.openNested (u : SubUse) (xs ys : Nat) (s : State) :
    CarriesHint a (openNested u xs ys s) (openNested u xs ys (withAlpha a s)) := .ite (.refused _) (.next _)

theorem CarriesHint.beginXform {k : XKind} {body : State → Out}
    (h : ∀ s, CarriesHint a (body s) (body (withAlpha a s))) (s : State) :
    CarriesHint a (beginXform k body s) (beginXform k body (withAlpha a s)) :=
  .whenStage (.ite (.abort _ _) (h _))

theorem CarriesHint.finishCode (L : Code) (m : Img) (s : State) :
    CarriesHint a (finishCode L m s) (finishCode L m (withAlpha a s)) := by
  refine .ite (.abort _ _) (.ite ?_ (.abort _ _))
  rw [pushCode_withAlpha]
  exact .next _

theorem CarriesHint.simpleCode (xs : List Nat) (n : Nat) (s : State) :
    CarriesHint a (simpleCode xs n s) (simpleCode xs n (withAlpha a s)) :=
  .whenStage (.withImg fun m => .finishCode _ m (advance n s))

theorem CarriesHint.nextToken (cl : Code) (lens : List Nat) (left prev : Nat) (m : Img) (s : State) :
    CarriesHint a (nextToken cl lens left prev m s) (nextToken cl lens left prev m (withAlpha a s)) :=
  .ite (.next _) (.finishCode _ m s)

theorem CarriesHint.atMaxsym {k k' : Code → Nat → Out} (h : ∀ cl A, CarriesHint a (k cl A) (k' cl A)) :
    CarriesHint a (atMaxsym s k) (atMaxsym (withAlpha a s) k') := by
  unfold Machine.atMaxsym
  rw [withAlpha_stage]
  cases s.stage with
  | maxsym cl => exact .withImg fun m => h cl _
  | _ => exact .refused _

theorem CarriesHint.atToken {k k' : Code → List Nat → Nat → Nat → Img → Out}
    (h : ∀ cl lens left prev m, CarriesHint a (k cl lens left prev m) (k' cl lens left prev m)) :
    CarriesHint a (atToken s k) (atToken (withAlpha a s) k') := by
  unfold Machine.atToken
  rw [withAlpha_stage]
  cases s.stage with
  | token cl lens left prev => exact .withImg fun m => h cl lens left prev m
  | _ => exact .refused _

theorem CarriesHint.runToken (tok eb rep : Nat) (len : Nat → Nat) (s : State) :
    CarriesHint a (runToken tok eb rep len s) (runToken tok eb rep len (withAlpha a s)) :=
  .atToken fun cl _ _ _ m => .ite (.abort _ _) (.nextToken _ _ _ _ m (advance (symbolBits cl tok + eb) s))

theorem CarriesHint.atPixel {k k' : Img → Code × Code × Code × Code × Code → Out}
    (h : ∀ m cs, CarriesHint a (k m cs) (k' m cs)) : CarriesHint a (atPixel s k) (atPixel (withAlpha a s) k') := by
  refine .whenStage (.withImg fun m => .ite ?_ (.refused _))
  cases pixelCodes m with
  | none => exact .refused _
  | some cs => exact h m cs

theorem CarriesHint.finishElement (m : Img) (s : State) :
    CarriesHint a (finishElement m s) (finishElement m (withAlpha a s)) := by
  refine .ite (.abort _ _) ?_
  rw [setCurImg_withAlpha]
  cases m.level0 <;> exact .next _

/-! ## The elements and the operations -/

theorem execXformEnd_carriesHint : CarriesHint a (execXformEnd s) (execXformEnd (withAlpha a s)) :=
  .whenStage (.ite (.refused _) (.next _))

theorem execXformSubgreen_carriesHint :
    CarriesHint a (execXformSubgreen s) (execXformSubgreen (withAlpha a s)) :=
  .beginXform (fun s => .next (pushXform ⟨.subtractGreen, s.xsize, 0, []⟩ (advance 3 s))) s

theorem execCcacheOff_carriesHint : CarriesHint a (execCcacheOff s) (execCcacheOff (withAlpha a s)) :=
  .whenStage (.withImg fun _ => .of_eq (afterCache_withAlpha (s := advance 1 s)))

theorem execCcacheOn_carriesHint (c : BitVec 4) : CarriesHint a (execCcacheOn c s) (execCcacheOn c (withAlpha a s)) :=
  .whenStage (.withImg fun _ => .ite (.abort _ _) (.of_eq (afterCache_withAlpha (s := advance 5 s))))

theorem execMetaOff_carriesHint : CarriesHint a (execMetaOff s) (execMetaOff (withAlpha a s)) := by
  refine .whenStage ?_
  rw [withAlpha_img0]
  cases s.img0 with
  | none => exact .refused _
  | some m => exact .next _

theorem execMetaOn_carriesHint (b : BitVec 3) : CarriesHint a (execMetaOn b s) (execMetaOn b (withAlpha a s)) := by
  refine .whenStage ?_
  rw [withAlpha_img0]
  cases s.img0 with
  | none => exact .refused _
  | some m => exact .openNested _ _ _ (advance 4 s)

theorem execHcodeNormal_carriesHint (k : BitVec 4) (lens : List (BitVec 3)) :
    CarriesHint a (execHcodeNormal k lens s) (execHcodeNormal k lens (withAlpha a s)) :=
  .whenStage (.withImg fun _ => .ite (.next _) (.abort _ _))

theorem execMaxsymOff_carriesHint : CarriesHint a (execMaxsymOff s) (execMaxsymOff (withAlpha a s)) :=
  .atMaxsym fun _ _ => .next _

theorem execMaxsymOn_carriesHint (n : BitVec 3) (k : Nat) :
    CarriesHint a (execMaxsymOn n k s) (execMaxsymOn n k (withAlpha a s)) :=
  .atMaxsym fun _ _ => .ite (.abort _ _) (.next _)

theorem execClLit_carriesHint (tok : BitVec 4) : CarriesHint a (execClLit tok s) (execClLit tok (withAlpha a s)) :=
  .atToken fun cl _ _ _ m => .nextToken _ _ _ _ m (advance (symbolBits cl tok.toNat) s)

theorem execPxLiteral_carriesHint (g r b al : BitVec 8) :
    CarriesHint a (execPxLiteral g r b al s) (execPxLiteral g r b al (withAlpha a s)) :=
  .atPixel fun _ _ => .finishElement _ (advance _ s)

theorem execPxBackref_carriesHint (g le d de : Nat) :
    CarriesHint a (execPxBackref g le d de s) (execPxBackref g le d de (withAlpha a s)) :=
  .atPixel fun _ _ => .ite (.abort _ _) (.ite (.abort _ _) (.finishElement _ (advance _ s)))

theorem execPxCache_carriesHint (g : Nat) : CarriesHint a (execPxCache g s) (execPxCache g (withAlpha a s)) :=
  .atPixel fun _ _ => .finishElement _ (advance _ s)

theorem execHuffDecode_carriesHint (c : CodeSel) :
    CarriesHint a (execHuffDecode c s) (execHuffDecode c (withAlpha a s)) := by
  unfold execHuffDecode
  rw [selectedCode_withAlpha, window_withAlpha]
  cases selectedCode c s with
  | none => exact .refused _
  | some L =>
    dsimp only
    cases decodeSymbol L (window s) 0 with
    | none => exact .refused _
    | some sn => exact .next _

theorem execGroupSelect_carriesHint (x y : Nat) :
    CarriesHint a (execGroupSelect x y s) (execGroupSelect x y (withAlpha a s)) := by
  unfold execGroupSelect
  rw [curImg_withAlpha]
  cases curImg s with
  | none => exact .refused _
  | some m =>
    dsimp only
    cases groupAt m x y with
    | none => exact .refused _
    | some gi => exact .next _

theorem execCcInsert_carriesHint (v : Word) :
    CarriesHint a (execCcInsert v s) (execCcInsert v (withAlpha a s)) := by
  unfold execCcInsert
  rw [curImg_withAlpha]
  cases curImg s with
  | none => exact .refused _
  | some m => exact .of_eq setCurImg_withAlpha

theorem execCcLookup_carriesHint (key : Nat) :
    CarriesHint a (execCcLookup key s) (execCcLookup key (withAlpha a s)) := by
  unfold execCcLookup
  rw [curImg_withAlpha]
  cases curImg s with
  | none => exact .refused _
  | some m => exact .next _

/-- Every instruction but HDR and START carries the hint along. -/
theorem exec_carriesHint {i : Instr} (hi : isHeader i = false) (hstart : i ≠ .hostStart) :
    CarriesHint a (exec i s) (exec i (withAlpha a s)) := by
  cases i with
  | hdr => cases hi
  | hostStart => exact absurd rfl hstart
  | xformEnd => exact execXformEnd_carriesHint
  | xformPred | xformXcolor => exact .beginXform (fun s => .openNested _ _ _ (advance 6 s)) s
  | xformCindex => exact .beginXform (fun s => .openNested _ _ _ (advance 11 s)) s
  | xformSubgreen => exact execXformSubgreen_carriesHint
  | ccacheOff => exact execCcacheOff_carriesHint
  | ccacheOn c => exact execCcacheOn_carriesHint c
  | metaOff => exact execMetaOff_carriesHint
  | metaOn b => exact execMetaOn_carriesHint b
  | hcodeS1b1 | hcodeS1b8 | hcodeS2b1 | hcodeS2b8 => exact .simpleCode _ _ s
  | hcodeNormal k lens => exact execHcodeNormal_carriesHint k lens
  | maxsymOff => exact execMaxsymOff_carriesHint
  | maxsymOn n k => exact execMaxsymOn_carriesHint n k
  | clLit tok => exact execClLit_carriesHint tok
  | clRep16 | clZero17 | clZero18 => exact .runToken _ _ _ _ s
  | pxLiteral g r b al => exact execPxLiteral_carriesHint g r b al
  | pxBackref g le d de => exact execPxBackref_carriesHint g le d de
  | pxCache g => exact execPxCache_carriesHint g
  | huffDecode c => exact execHuffDecode_carriesHint c
  | groupSelect x y => exact execGroupSelect_carriesHint x y
  | ccInsert v => exact execCcInsert_carriesHint v
  | ccLookup key => exact execCcLookup_carriesHint key
  | _ => exact .next _

/-! ## HDR and START -/

theorem SameButAlpha.ite {p : Prop} [Decidable p] {x x' : Out} (h : SameButAlpha o' o) (hx : SameButAlpha x' x) :
    SameButAlpha (if p then o' else x') (if p then o else x) := by
  split_ifs
  · exact h
  · exact hx

theorem SameButAlpha.refl (o : Out) : SameButAlpha o o := rfl

/-- HDR overwrites the hint with the stream's, which changes nothing else (R141). -/
theorem execHdr_sameButAlpha (magic : BitVec 8) (w h : BitVec 14) (b b' : BitVec 1) (v : BitVec 3) :
    SameButAlpha (execHdr magic w h b v (withAlpha a s)) (execHdr magic w h b' v s) := by
  have habort : ∀ k n, SameButAlpha (abort k (advance n (withAlpha a s))) (abort k (advance n s)) := fun k n =>
    (CarriesHint.abort k (advance n s)).sameButAlpha
  have haccepted := withAlpha_congr_info (a := 0) (s := { advance 40 s with
    hdr := ⟨w.toNat + 1, h.toNat + 1, 0, v⟩, xsize := w.toNat + 1, phase := .xform, stage := .xform })
    fun k hk => infoWord_getLsbD (a := b) (b := b') w h v hk
  exact .ite (.ite (habort _ 8) (.ite (habort _ 40) (.ite (habort _ 40)
    (.ite (habort _ 40) (congrArg Host.Outcome.next haccepted))))) (.refl _)

theorem execHostStart_sameButAlpha : SameButAlpha (execHostStart (withAlpha a s)) (execHostStart s) :=
  .ite (CarriesHint.next s).sameButAlpha (.ite (.refl _) (.refl _))

/-- Every instruction takes states that differ in the hint alone to states that do. -/
theorem exec_sameButAlpha (i : Instr) (s : State) : SameButAlpha (exec i (withAlpha a s)) (exec i s) := by
  cases hi : isHeader i with
  | true =>
    cases i with
    | hdr magic w h b v => exact execHdr_sameButAlpha magic w h b b v
    | _ => cases hi
  | false =>
    by_cases hstart : i = .hostStart
    · subst hstart
      exact execHostStart_sameButAlpha
    · exact (exec_carriesHint hi hstart).sameButAlpha

/-! ## Steps -/

theorem runElement_sameButAlpha : SameButAlpha (runElement (withAlpha a s)) (runElement s) := by
  unfold runElement
  rw [fetchCtx_withAlpha, window_withAlpha]
  cases fetchCtx s with
  | none => exact .refl _
  | some c =>
    dsimp only
    cases decode c (window s) with
    | error => exact .refl _
    | ok i => exact exec_sameButAlpha i s

theorem endSubImage_carriesHint (n : Nested) : CarriesHint a (endSubImage n s) (endSubImage n (withAlpha a s)) := by
  unfold endSubImage
  cases n.use with
  | groupMap mb =>
    dsimp only
    rw [withAlpha_img0]
    cases s.img0 with
    | none => exact .fault _
    | some m => exact .next _
  | _ => exact .next _

theorem endPalette_carriesHint : CarriesHint a (endPalette s) (endPalette (withAlpha a s)) := by
  unfold endPalette
  rw [withAlpha_nested]
  split
  · exact .next _
  · exact .fault _

theorem endLevel0_carriesHint : CarriesHint a (endLevel0 s) (endLevel0 (withAlpha a s)) := .ite (.abort _ _) (.next _)

theorem pixelMove_sameButAlpha : SameButAlpha (pixelMove (withAlpha a s)) (pixelMove s) := by
  unfold pixelMove
  rw [curImg_withAlpha, withAlpha_nested]
  cases curImg s with
  | none => exact .refl _
  | some m =>
    refine .ite (CarriesHint.next (beginBatch s.rowsEmitted (s.rowsEmitted + rowBatch) m s)).sameButAlpha
      (.ite runElement_sameButAlpha ?_)
    cases s.nested with
    | none => exact endLevel0_carriesHint.sameButAlpha
    | some n => exact (endSubImage_carriesHint n).sameButAlpha

/-- The end of a job leaves HDR.ALPHA unspecified (R348). -/
theorem finishMove_sameButAlpha : SameButAlpha (finishMove (withAlpha a s)) (finishMove s) := by
  unfold finishMove
  rw [withAlpha_img0]
  refine .ite ?_ (congrArg Host.Outcome.next (withAlpha_withAlpha 0 a (finishJob s)))
  cases s.img0 with
  | none => exact .refl _
  | some m => exact (CarriesHint.next (beginBatch s.rowsEmitted s.hdr.h m s)).sameButAlpha

theorem sequence_sameButAlpha : SameButAlpha (Machine.sequence (withAlpha a s)) (Machine.sequence s) := by
  unfold Machine.sequence
  rw [withAlpha_emit, withAlpha_stage]
  cases s.emit with
  | inverting | sinking => exact CarriesHint.sameButAlpha (a := a) (.next _)
  | off =>
    cases s.stage with
    | pixel => exact pixelMove_sameButAlpha
    | palette => exact endPalette_carriesHint.sameButAlpha
    | finish => exact finishMove_sameButAlpha
    | _ => exact runElement_sameButAlpha

theorem coreMove_sameButAlpha (s : State) : SameButAlpha (coreMove (withAlpha a s)) (coreMove s) := by
  unfold coreMove
  rw [withAlpha_ops]
  cases s.ops with
  | cons i rest => exact exec_sameButAlpha i { s with ops := rest }
  | nil => exact .ite sequence_sameButAlpha (CarriesHint.next s).sameButAlpha

theorem writeReg_withAlpha (r : Reg) (v : Word) : writeReg r v (withAlpha a s) = withAlpha a (writeReg r v s) := by
  cases hb : isBusy s with
  | true => rw [writeReg_of_busy r v (s := withAlpha a s) hb, writeReg_of_busy r v hb]
  | false =>
    cases r with
    | inLen => rw [writeReg_inLen_of_idle v (s := withAlpha a s) hb, writeReg_inLen_of_idle v hb]; rfl
    | expect => rw [writeReg_expect_of_idle v (s := withAlpha a s) hb, writeReg_expect_of_idle v hb]; rfl
    | _ => rfl

theorem writeIn_withAlpha (x : BitVec 32) (b : Byte) : writeIn x b (withAlpha a s) = withAlpha a (writeIn x b s) := by
  cases hb : isBusy s with
  | true => rw [writeIn_of_busy x b (s := withAlpha a s) hb, writeIn_of_busy x b hb]; rfl
  | false => rw [writeIn_of_idle x b (s := withAlpha a s) hb, writeIn_of_idle x b hb]; rfl

theorem hostMove_sameButAlpha (act : HostAct) (s : State) :
    SameButAlpha (hostMove act (withAlpha a s)) (hostMove act s) := by
  cases act with
  | pass => exact coreMove_sameButAlpha s
  | write r v =>
    cases r with
    | ctrl =>
      rw [hostMove_writeCtrl, hostMove_writeCtrl]
      exact .ite (exec_sameButAlpha .hostStart s) (CarriesHint.next s).sameButAlpha
    | _ => exact (CarriesHint.of_eq (writeReg_withAlpha _ v)).sameButAlpha
  | writeIn x b => exact (CarriesHint.of_eq (writeIn_withAlpha x b)).sameButAlpha
  | reset => exact .refl _

theorem step_sameButAlpha (s : State) : SameButAlpha (step (withAlpha a s)) (step s) := by
  cases hhost : s.host with
  | nil =>
    rw [step_core hhost, step_core (s := withAlpha a s) hhost]
    exact coreMove_sameButAlpha s
  | cons act rest =>
    rw [step_host hhost, step_host (s := withAlpha a s) hhost]
    exact hostMove_sameButAlpha act { s with host := rest }

end

/-- Settles O59: every instruction and every step keeps states equal but for the hint, and the host reads it in INFO
alone. -/
theorem alphaHintInert : Obligations.AlphaHintInert := by
  refine ⟨fun i s a => exec_sameButAlpha i s, fun s a => step_sameButAlpha s, fun magic w h a a' v s => ?_,
    fun i s t a hi hstart hx ht => ?_, fun s a x y => ⟨fun r hr => ?_, ?_, fun k hk => ?_, rfl⟩⟩
  · exact (execHdr_sameButAlpha (a := a) magic w h a a v).symm.trans (execHdr_sameButAlpha magic w h a a' v)
  · have hcarries := exec_carriesHint (a := a) (s := s) hi hstart
    rw [hx] at hcarries
    exact hcarries.of_next ht
  · cases r with
    | info => exact absurd rfl hr
    | _ => rfl
  · rw [withAlpha_info_getLsbD, if_pos rfl]
  · rw [withAlpha_info_getLsbD, if_neg hk]

end Sys2Proof.Machine
end

section
/-! PROOFS, family 40_bit_reader: the value of the bits at the cursor, and what the five operations do with it (O8). -/

namespace Sys2Proof

/-- The bits read are binary digits, the first one of weight 1 (R126). -/
theorem bitsAt_eq_sum (rd : Window) (off n : Nat) :
    bitsAt rd off n = ((List.range n).map fun k => 2 ^ k * (rd (off + k)).toNat).sum := by
  induction n generalizing off with
  | zero => rfl
  | succ n ih =>
    have hdouble (k : Nat) :
        2 ^ (k + 1) * (rd (off + (k + 1))).toNat = 2 * (2 ^ k * (rd (off + 1 + k)).toNat) := by
      rw [Nat.pow_succ', Nat.mul_assoc, Nat.add_right_comm, Nat.add_assoc]
    simp [bitsAt, ih, List.range_succ_eq_map, Function.comp_def, hdouble, List.sum_map_mul_left]

namespace Machine

theorem peekBits_eq_sum (s : State) (n : Nat) :
    peekBits s n = ((List.range n).map fun k => 2 ^ k * (streamBit s (s.pos + k)).toNat).sum := by
  simp [peekBits, bitsAt_eq_sum, window]

theorem isEos_toNat (s : State) : (isEos s).toNat = if 8 * s.inLen.toNat < s.pos then 1 else 0 := by
  simp [isEos, Bool.toNat, Bool.cond_decide]

/-- Settles O8: the value peeked is that of the bits at the cursor; the rest is each operation's own equation. -/
theorem bitReader : Obligations.BitReader := by
  intro s n
  rw [← peekBits_eq_sum, ← isEos_toNat]
  exact ⟨fun _ => rfl, fun _ => rfl, rfl, rfl, fun _ => rfl⟩

end Machine

end Sys2Proof
end

section
/-! PROOFS, family 41_stream_structure: the equation of each shared operation of the framing elements at the place where
the grammar puts it (R140 to R156). -/

namespace Sys2Proof.Machine

/-! ## A failure -/

/-- A failure raised `n` bits on ends the job there, whether or not the header register was written before it (R340). -/
theorem endsJob_abort_withHdr (k : Failure) (n : Nat) (hd : Hdr) (s : State) :
    endsJob k n s (abort k { advance n s with hdr := hd }) :=
  ⟨_, rfl, rfl, rfl, rfl, rfl, rfl, rfl, rfl, rfl, rfl, rfl, rfl, rfl, rfl, rfl, rfl, rfl, rfl⟩

theorem endsJob_abort_advance (k : Failure) (n : Nat) (s : State) : endsJob k n s (abort k (advance n s)) :=
  endsJob_abort_withHdr k n s.hdr s

theorem isEos_iff (s : State) : isEos s = true ↔ 8 * s.inLen.toNat < s.pos := by simp [isEos]

/-! ## Image contexts -/

theorem freshImg_eq (xs ys : Nat) (l : Bool) :
    freshImg xs ys l =
      { xs := xs, ys := ys, level0 := l, cc := ⟨0, []⟩, mt := ⟨0, xs, []⟩, ngroups := 1, codes := [], pix := [] } := by
  simp [freshImg]

/-- A sub-image of at most `PIX_MAX` pixels begins at its colour-cache field (R151). -/
theorem openNested_of_fits {u : SubUse} {xs ys : Nat} {s : State} (h : xs * ys ≤ s.params.pixMax) :
    openNested u xs ys s =
      .next { s with nested := some ⟨u, freshImg xs ys false⟩, stage := .ccache } :=
  openNested_next.2 ⟨h, rfl⟩

theorem curImg_of_level0 {s : State} (hn : s.nested = none) : curImg s = s.img0 := by simp [curImg, hn]

theorem curImg_of_nested {s : State} {n : Nested} (hn : s.nested = some n) : curImg s = some n.img := by
  simp [curImg, hn]

theorem setCurImg_of_level0 {s : State} (m : Img) (hn : s.nested = none) :
    setCurImg m s = { s with img0 := some m } := by simp [setCurImg, hn]

theorem setCurImg_of_nested {s : State} {n : Nested} (m : Img) (hn : s.nested = some n) :
    setCurImg m s = { s with nested := some { n with img := m } } := by simp [setCurImg, hn]

/-! ## The transform list -/

section
variable {k : XKind} {s : State}

theorem beginXform_of_seen (body : State → Out) (hst : s.stage = .xform) (hseen : wasSeen s.seen k = true) :
    beginXform k body s = abort .invalidTransform (advance 3 s) :=
  beginXform_next.2 ⟨hst, .inl ⟨hseen, rfl⟩⟩

theorem beginXform_of_unseen (body : State → Out) (hst : s.stage = .xform) (hseen : wasSeen s.seen k = false) :
    beginXform k body s = body { s with seen := markSeen s.seen k } := by
  simp [beginXform, whenStage, hst, hseen]

end

end Sys2Proof.Machine
end

section
/-! PROOFS, family 41_stream_structure: the header element (O10). -/

namespace Sys2Proof.Machine

section
variable {magic : BitVec 8} {w h : BitVec 14} {a : BitVec 1} {v : BitVec 3} {s : State}

/-- The state after the 40 bits of a header, before its checks. -/
def readHeader (w h : BitVec 14) (a : BitVec 1) (v : BitVec 3) (s : State) : State :=
  { advance 40 s with hdr := { w := w.toNat + 1, h := h.toNat + 1, alpha := a, ver := v } }

theorem exec_hdr_of_magic (hst : s.stage = .header) (hm : magic = 0x2F) :
    exec (.hdr magic w h a v) s =
      if v ≠ 0 then abort .malformedHeader (readHeader w h a v s)
      else if isEos (readHeader w h a v s) then abort .unexpectedEndOfStream (readHeader w h a v s)
      else if expectMismatch s.expect (readHeader w h a v s).hdr then abort .malformedHeader (readHeader w h a v s)
      else .next { readHeader w h a v s with
        info := infoWord (readHeader w h a v s).hdr, xsize := w.toNat + 1, phase := .xform, stage := .xform } := by
  subst hm
  simp [exec, execHdr, whenStage, hst, magicByte, readHeader]

theorem exec_hdr_of_wrong_magic (hst : s.stage = .header) (hm : magic ≠ 0x2F) :
    exec (.hdr magic w h a v) s = abort .malformedHeader (advance 8 s) := by
  have hne : magic ≠ magicByte := hm
  simp [exec, execHdr, whenStage, hst, hne]

/-- The expected dimensions are checked only with `EXPECT.EN` set (R142). -/
theorem expectMismatch_readHeader :
    expectMismatch s.expect (readHeader w h a v s).hdr = true ↔
      ¬ (s.expect.getLsbD 31 = true →
        w.toNat = (s.expect.extractLsb' 0 14).toNat ∧ h.toNat = (s.expect.extractLsb' 14 14).toNat) := by
  simp [expectMismatch, readHeader, imp_iff_not_or]

theorem isEos_readHeader : isEos (readHeader w h a v s) = true ↔ 8 * s.inLen.toNat < s.pos + 40 := isEos_iff _

end

/-- Settles O10, check by check in their order. -/
theorem headerElement : Obligations.HeaderElement := by
  intro magic w h a v s hst
  have hpast (hin : s.pos + 40 ≤ 8 * s.inLen.toNat) : ¬ isEos (readHeader w h a v s) = true :=
    fun heos => hin.not_gt (isEos_readHeader.1 heos)
  have hfails (k : Failure) : endsJob k 40 s (abort k (readHeader w h a v s)) := endsJob_abort_withHdr k 40 _ s
  refine ⟨fun hm => ?_, fun hm hv => ?_, fun hm hv heos => ?_, fun hm hv hin hexp => ?_, fun hm hv hin hexp => ?_⟩
  · rw [exec_hdr_of_wrong_magic hst hm]
    exact endsJob_abort_advance _ 8 s
  · rw [exec_hdr_of_magic hst hm, if_pos hv]
    exact hfails _
  · rw [exec_hdr_of_magic hst hm, if_neg (not_not.2 hv), if_pos (isEos_readHeader.2 heos)]
    exact hfails _
  · rw [exec_hdr_of_magic hst hm, if_neg (not_not.2 hv), if_neg (hpast hin), if_pos (expectMismatch_readHeader.2 hexp)]
    exact hfails _
  · rw [exec_hdr_of_magic hst hm, if_neg (not_not.2 hv), if_neg (hpast hin),
      if_neg fun hmis => expectMismatch_readHeader.1 hmis hexp]
    subst hv
    simp only [readHeader, infoWord_eq_append]
    rfl

end Sys2Proof.Machine
end

section
/-! PROOFS, family 41_stream_structure: complete images: the transform records (O15), the groups (O19), the end of the
job (O44). -/

namespace Sys2Proof.Machine

/-- A run goes on from the state after its first step. -/
theorem run_succ_of_step {M : Host.Core} {s t : M.State} (k : Nat) (h : M.step s = .next t) :
    M.run (k + 1) s = M.run k t := by
  simp [Host.Core.run, h]

section
variable {s : State}

theorem step_op {i : Instr} {rest : List Instr} (hhost : s.host = []) (hops : s.ops = i :: rest) :
    step s = exec i { s with ops := rest } := by
  simp [step_core hhost, coreMove, hops]

/-- With no access and no operation waiting and no batch in emission a running job moves by its grammar position. -/
theorem step_sequence (hhost : s.host = []) (hops : s.ops = []) (hrun : s.phase.running = true) :
    step s = Machine.sequence s := by
  simp [step_core hhost, coreMove, hops, hrun]

theorem step_pixel (hhost : s.host = []) (hops : s.ops = []) (hemit : s.emit = .off) (hrun : s.phase.running = true)
    (hst : s.stage = .pixel) : step s = pixelMove s := by
  simp [step_sequence hhost hops hrun, Machine.sequence, hemit, hst]

theorem step_palette (hhost : s.host = []) (hops : s.ops = []) (hemit : s.emit = .off) (hrun : s.phase.running = true)
    (hst : s.stage = .palette) : step s = endPalette s := by
  simp [step_sequence hhost hops hrun, Machine.sequence, hemit, hst]

theorem step_finish (hhost : s.host = []) (hops : s.ops = []) (hemit : s.emit = .off) (hrun : s.phase.running = true)
    (hst : s.stage = .finish) : step s = finishMove s := by
  simp [step_sequence hhost hops hrun, Machine.sequence, hemit, hst]

/-- The step of a complete nested image ends it (R161). -/
theorem step_nested_complete {n : Nested} (hhost : s.host = []) (hops : s.ops = []) (hemit : s.emit = .off)
    (hrun : s.phase.running = true) (hst : s.stage = .pixel) (hn : s.nested = some n) (hl : n.img.level0 = false)
    (hfull : n.img.pix.length = n.img.xs * n.img.ys) : step s = endSubImage n s := by
  rw [step_pixel hhost hops hemit hrun hst]
  simp [pixelMove, curImg_of_nested hn, hl, hn, Img.pos, Img.size, hfull]

/-- The step of a complete level-0 image with no batch due is the end check (R158). -/
theorem step_level0_complete {m : Img} (hhost : s.host = []) (hops : s.ops = []) (hemit : s.emit = .off)
    (hrun : s.phase.running = true) (hst : s.stage = .pixel) (hn : s.nested = none) (h0 : s.img0 = some m)
    (hfull : m.pix.length = m.xs * m.ys) (hdue : s.rowsDone < s.rowsEmitted + 16) : step s = endLevel0 s := by
  rw [step_pixel hhost hops hemit hrun hst]
  simp [pixelMove, curImg_of_level0 hn, h0, hn, Img.pos, Img.size, hfull, rowBatch, Nat.not_le.2 hdue]

end

/-- PALETTE_EXPAND has been issued for the palette `pal` (R148). -/
def paletteIssued (pal : List Word) (wb : Nat) (s : State) : State :=
  { s with stage := .palette, ops := [.paletteExpand pal wb] }

/-- PALETTE_EXPAND has run and returned the table (R288). -/
def paletteExpanded (pal : List Word) (wb : Nat) (s : State) : State :=
  { s with stage := .palette, res := .pixels (paletteTable pal wb) }

section
variable {s : State} {n : Nested} {wb : Nat}

theorem endSubImage_palette (hops : s.ops = []) (hu : n.use = .palette wb) :
    endSubImage n s = .next (paletteIssued n.img.pix wb s) := by
  simp [endSubImage, hu, hops, paletteIssued]

theorem step_paletteIssued (pal : List Word) (hhost : s.host = []) (hops : s.ops = []) :
    step (paletteIssued pal wb s) = .next (paletteExpanded pal wb s) := by
  rw [step_op (s := paletteIssued pal wb s) hhost rfl]
  simp [exec, execPaletteExpand, setRes, paletteIssued, paletteExpanded, hops]

theorem endPalette_paletteExpanded (pal : List Word) (hn : s.nested = some n) (hu : n.use = .palette wb) :
    endPalette (paletteExpanded pal wb s) = .next { s with
      xfs := s.xfs ++ [⟨.colourIndexing, s.xsize, wb, paletteTable pal wb⟩], nested := none, stage := .xform,
      xsize := subSize s.xsize wb, res := .pixels (paletteTable pal wb) } :=
  endPalette_next.2 ⟨wb, n.img, by rw [← hu]; exact hn, rfl⟩

/-- A complete palette takes three steps: PALETTE_EXPAND is issued, it runs, and the record joins the list (R148). -/
theorem run_palette (hhost : s.host = []) (hops : s.ops = []) (hemit : s.emit = .off) (hrun : s.phase.running = true)
    (hn : s.nested = some n) (hu : n.use = .palette wb) (hstep : step s = endSubImage n s) :
    Host.Core.run Sys2Proof.core 3 s = .next { s with
      xfs := s.xfs ++ [⟨.colourIndexing, s.xsize, wb, paletteTable n.img.pix wb⟩], nested := none, stage := .xform,
      xsize := subSize s.xsize wb, res := .pixels (paletteTable n.img.pix wb) } := by
  have hissue := hstep.trans (endSubImage_palette hops hu)
  have hexpand := step_paletteIssued (wb := wb) n.img.pix hhost hops
  have hrecord := (step_palette (s := paletteExpanded n.img.pix wb s) hhost hops hemit hrun rfl).trans
    (endPalette_paletteExpanded n.img.pix hn hu)
  calc Host.Core.run Sys2Proof.core 3 s
      = Host.Core.run Sys2Proof.core 2 (paletteIssued n.img.pix wb s) := run_succ_of_step (M := Sys2Proof.core) 2 hissue
    _ = Host.Core.run Sys2Proof.core 1 (paletteExpanded n.img.pix wb s) :=
      run_succ_of_step (M := Sys2Proof.core) 1 hexpand
    _ = _ := run_succ_of_step (M := Sys2Proof.core) 0 hrecord

end

/-- Settles O15: the sub-image's last turn ends it, for each use; a palette's is expanded in between. -/
theorem subImageBecomesRecord : Obligations.SubImageBecomesRecord := by
  intro s n hhost hops hemit hrun hst hn hl hfull
  have hstep := step_nested_complete hhost hops hemit hrun hst hn hl hfull
  refine ⟨fun bits hu => ?_, fun bits hu => ?_, fun wb hu => ?_⟩
  · exact hstep.trans (endSubImage_next.2 (.inl ⟨bits, hu, rfl⟩))
  · exact hstep.trans (endSubImage_next.2 (.inr (.inl ⟨bits, hu, rfl⟩)))
  · rw [run_palette hhost hops hemit hrun hn hu hstep, subSize_eq]

/-- NGROUPS is one more than an index of the meta image (R157). -/
theorem groupCount_pred_mem {idx : List Nat} (h : idx ≠ []) : groupCount idx - 1 ∈ idx := by
  cases idx with
  | nil => exact absurd rfl h
  | cons g gs =>
    have hmax : (g :: gs).max? = some (groupCount (g :: gs) - 1) := by
      simp only [groupCount, List.max?_cons', List.foldl_cons, Nat.zero_max, Nat.add_sub_cancel]
    exact List.max?_mem hmax

/-- The group index is the red and the green byte of a pixel (R162). -/
theorem groupIndex_eq (p : Word) : groupIndex p = (p.toNat >>> 8) &&& 0xFFFF := by
  rw [groupIndex, BitVec.extractLsb'_toNat, ← Nat.and_two_pow_sub_one_eq_mod]

/-- Settles O19: the meta image's last turn reduces it to its indexes, and the largest of them counts the groups. -/
theorem metaImageGivesGroups : Obligations.MetaImageGivesGroups := by
  intro s n m mb hhost hops hemit hrun hst hn hl hfull hu h0 hpix
  have hstep := step_nested_complete hhost hops hemit hrun hst hn hl hfull
  have hidx : n.img.pix.map groupIndex ≠ [] := by simpa using hpix
  refine ⟨n.img.pix.map groupIndex, groupCount (n.img.pix.map groupIndex),
    List.map_congr_left fun p _ => groupIndex_eq p, fun g hg => lt_groupCount hg, groupCount_pred_mem hidx, ?_⟩
  rw [← subSize_eq]
  exact hstep.trans (endSubImage_next.2 (.inr (.inr (.inr ⟨mb, m, hu, h0, rfl⟩))))

/-- Settles O44: the end check at the image's last turn, and the job's last turn, after which the core waits. -/
theorem jobEnd : Obligations.JobEnd := by
  intro s m hhost hops hemit hrun hn h0
  refine ⟨fun hst hfull hdue => ?_, fun hst hrows => ?_⟩
  · rw [step_level0_complete hhost hops hemit hrun hst hn h0 hfull hdue, endLevel0]
    constructor
    · intro heos
      rw [if_pos ((isEos_iff s).2 heos)]
      exact endsJob_abort_advance _ 0 s
    · intro hin
      rw [if_neg fun heos => hin.not_gt ((isEos_iff s).1 heos)]
  · have hstep : step s = .next (finishJob s) :=
      (step_finish hhost hops hemit hrun hst).trans (finishMove_next.2 (.inr ⟨hrows.ge, rfl⟩))
    obtain ⟨-, -, hwaits, -⟩ := stepRunsTheInstruction (finishJob s)
    exact ⟨_, hstep, rfl, rfl, rfl, rfl, rfl, rfl, rfl, rfl, rfl, rfl, rfl, rfl, rfl, rfl,
      hwaits hhost rfl (.inr (.inl rfl))⟩

end Sys2Proof.Machine
end

section
/-! PROOFS, family 41_stream_structure: the transform elements (O13, O14), the colour-cache and meta-Huffman elements
(O17, O18), and the codes of a group (O25). -/

namespace Sys2Proof.Machine

/-! ## Transform elements -/

section
variable (s : State)

theorem exec_xformPred (b : BitVec 3) :
    exec (.xformPred b) s =
      beginXform .predictor (fun s => openTiles (.predictor (tileExp b)) (tileExp b) (advance 6 s)) s := rfl

theorem exec_xformXcolor (b : BitVec 3) :
    exec (.xformXcolor b) s =
      beginXform .crossColour (fun s => openTiles (.crossColour (tileExp b)) (tileExp b) (advance 6 s)) s := rfl

theorem exec_xformSubgreen :
    exec .xformSubgreen s =
      beginXform .subtractGreen (fun s => .next (pushXform ⟨.subtractGreen, s.xsize, 0, []⟩ (advance 3 s))) s := rfl

theorem exec_xformCindex (n : BitVec 8) :
    exec (.xformCindex n) s =
      beginXform .colourIndexing
        (fun s => openNested (.palette (widthBits (n.toNat + 1))) (n.toNat + 1) 1 (advance 11 s)) s := rfl

end

/-- Settles O13: each element's type is not yet marked, so its body runs, and its buffer fits. -/
theorem transformElements : Obligations.TransformElements := by
  intro s b n hst
  dsimp only
  simp only [← subSize_eq, ← freshImg_eq]
  refine ⟨fun hfits => ?_, fun hseen hfits => ?_, fun hseen hfits => ?_, fun hseen => ?_,
    fun hseen hfits => ⟨_, rfl, ?_⟩⟩
  · simp [exec, execXformEnd, whenStage, hst, tooLarge, Nat.not_lt.2 hfits, advance]
  · rw [exec_xformPred, beginXform_of_unseen (k := .predictor) _ hst hseen]
    exact openNested_of_fits hfits
  · rw [exec_xformXcolor, beginXform_of_unseen (k := .crossColour) _ hst hseen]
    exact openNested_of_fits hfits
  · rw [exec_xformSubgreen, beginXform_of_unseen (k := .subtractGreen) _ hst hseen]
    rfl
  · rw [exec_xformCindex, beginXform_of_unseen (k := .colourIndexing) _ hst hseen]
    exact openNested_of_fits ((Nat.mul_one _).trans_le hfits)

/-- Settles O14, element by element. -/
theorem duplicateTransformFails : Obligations.DuplicateTransformFails := by
  intro s i k hst hi hseen
  have hwas : wasSeen s.seen k = true := by cases k <;> exact hseen
  have hbegins : ∃ body, exec i s = beginXform k body s := by
    cases i with
    | xformPred b => cases hi; exact ⟨_, exec_xformPred s b⟩
    | xformXcolor b => cases hi; exact ⟨_, exec_xformXcolor s b⟩
    | xformSubgreen => cases hi; exact ⟨_, exec_xformSubgreen s⟩
    | xformCindex n => cases hi; exact ⟨_, exec_xformCindex s n⟩
    | _ => cases hi
  obtain ⟨body, hbody⟩ := hbegins
  rw [hbody, beginXform_of_seen body hst hwas]
  exact endsJob_abort_advance _ 3 s

/-! ## Colour-cache elements -/

section
variable {s : State} {m : Img} {c : BitVec 4}

theorem exec_ccacheOff (hst : s.stage = .ccache) (hm : curImg s = some m) :
    exec .ccacheOff s = .next (afterCache { m with cc := ⟨0, []⟩ } (advance 1 s)) := by
  simp [exec, execCcacheOff, whenStage, withImg, hst, hm]

theorem exec_ccacheOn_legal (hst : s.stage = .ccache) (hm : curImg s = some m) (hlo : 1 ≤ c.toNat)
    (hhi : c.toNat ≤ 11) :
    exec (.ccacheOn c) s = .next (afterCache { m with cc := freshCache c.toNat } (advance 5 s)) := by
  simp [exec, execCcacheOn, whenStage, withImg, hst, hm, Nat.not_lt.2 hlo, Nat.not_lt.2 hhi]

theorem exec_ccacheOn_illegal (hst : s.stage = .ccache) (hm : curImg s = some m)
    (hc : c.toNat < 1 ∨ 11 < c.toNat) :
    exec (.ccacheOn c) s = abort .invalidColorCacheBits (advance 5 s) := by
  simp only [exec, execCcacheOn, whenStage, withImg, hst, hm, hc, decide_true, if_true]

/-- Level 0 reads its meta bit (R140). -/
theorem afterCache_level0 (cc : CCache) (hn : s.nested = none) (hl : m.level0 = true) :
    afterCache { m with cc := cc } s =
      { s with img0 := some { m with cc := cc }, phase := .metaCfg, stage := .metaBit } := by
  simp [afterCache, hl, setCurImg_of_level0 _ hn]

/-- A nested image has one group and reads its codes (R151). -/
theorem afterCache_nested {n : Nested} (cc : CCache) (hn : s.nested = some n) (hl : m.level0 = false) :
    afterCache { m with cc := cc } s = { s with
      nested := some { n with img := { m with cc := cc, mt := ⟨0, m.xs, []⟩, ngroups := 1 } }, stage := .hcode } := by
  simp [afterCache, hl, setCurImg_of_nested _ hn]

end

/-- Settles O17: the element gives the context its cache or fails, and what follows is the level's. -/
theorem colourCacheElements : Obligations.ColourCacheElements := by
  intro s c hst
  refine ⟨fun m hn h0 hl => ?_, fun n hn hl => ?_, fun hm hc => ?_⟩
  · have hm : curImg s = some m := (curImg_of_level0 hn).trans h0
    refine ⟨?_, fun hlo hhi => ?_⟩
    · rw [exec_ccacheOff hst hm, afterCache_level0 (s := advance 1 s) _ hn hl]; rfl
    · rw [exec_ccacheOn_legal hst hm hlo hhi, afterCache_level0 (s := advance 5 s) _ hn hl]; rfl
  · have hm := curImg_of_nested hn
    refine ⟨?_, fun hlo hhi => ?_⟩
    · rw [exec_ccacheOff hst hm, afterCache_nested (s := advance 1 s) _ hn hl]; rfl
    · rw [exec_ccacheOn_legal hst hm hlo hhi, afterCache_nested (s := advance 5 s) _ hn hl]; rfl
  · obtain ⟨m, hm⟩ := Option.isSome_iff_exists.1 hm
    rw [exec_ccacheOn_illegal hst hm (by omega)]
    exact endsJob_abort_advance _ 5 s

/-! ## Meta-Huffman elements -/

section
variable {s : State} {m : Img}

theorem exec_metaOff (hst : s.stage = .metaBit) (h0 : s.img0 = some m) :
    exec .metaOff s = .next (beginCodes { m with mt := noMap m.xs, ngroups := 1 } (advance 1 s)) := by
  simp [exec, execMetaOff, whenStage, hst, h0]

theorem exec_metaOn (b : BitVec 3) (hst : s.stage = .metaBit) (h0 : s.img0 = some m) :
    exec (.metaOn b) s =
      openNested (.groupMap (tileExp b)) (subSize m.xs (tileExp b)) (subSize m.ys (tileExp b)) (advance 4 s) := by
  simp [exec, execMetaOn, whenStage, hst, h0]

end

/-- Settles O18: without a meta image the codes follow; with one its context begins, if it fits. -/
theorem metaElements : Obligations.MetaElements := by
  intro s m b hst h0
  dsimp only
  simp only [← subSize_eq, ← freshImg_eq]
  refine ⟨?_, fun hfits => ?_⟩
  · rw [exec_metaOff hst h0, noMap_eq]; rfl
  · exact (exec_metaOn b hst h0).trans (openNested_of_fits hfits)

/-! ## The codes of a group -/

/-- The alphabets of the five codes of a group (R94). -/
theorem alphabetSize_eq_getD {j : Nat} (bits : Nat) (hj : j < 5) :
    alphabetSize bits j = [256 + 24 + (if bits = 0 then 0 else 2 ^ bits), 256, 256, 256, 40].getD j 0 := by
  interval_cases j <;> rfl

/-- Settles O25: the alphabet by the code's index, and what follows a code by whether it is the last. -/
theorem groupsOfFiveCodes : Obligations.GroupsOfFiveCodes := by
  intro L m s
  refine ⟨alphabetSize_eq_getD _ (Nat.mod_lt _ (by decide)), fun hmore => ?_, fun hlast hl => ?_, fun hlast hl => ?_⟩
  · have hno : lastOfCodes m = false := by simpa [lastOfCodes] using hmore
    simp [pushCode_eq, hno]
  · have hyes : lastOfCodes m = true := by simpa [lastOfCodes] using hlast
    simp [pushCode_eq, hyes, hl]
  · have hyes : lastOfCodes m = true := by simpa [lastOfCodes] using hlast
    simp [pushCode_eq, hyes, hl]

end Sys2Proof.Machine
end

section
/-! PROOFS, family 42_huffman: in a valid code every bit sequence begins with a codeword (O2), and the codewords are
canonical (O3) (spec/42_huffman.md R196 to R198). -/

namespace Sys2Proof
open Machine (startsWith)

section
variable {L : Code} {rd : Window} {off s : Nat}

/-! ## Every bit sequence begins with a codeword -/

/-- Every value in the range of length `l` is the codeword of a symbol of that length (R197). -/
theorem exists_codeword_eq {l c : Nat} (hlow : firstCode L l ≤ c) (hhigh : c < firstCode L l + lenCount L l) :
    ∃ s, L.getD s 0 = l ∧ codeword L s = c := by
  obtain ⟨d, rfl⟩ := Nat.exists_eq_add_of_le hlow
  have hd : d < L.count l := Nat.lt_of_add_lt_add_left hhigh
  have hlen : L.getD (L.idxOfNth l d) 0 = l := by
    rw [List.getD_eq_getElem _ _ (List.idxOfNth_lt_length_of_lt_count hd), List.getElem_idxOfNth_eq]
  have hbefore : (L.take (L.idxOfNth l d)).count l = d :=
    List.countPBefore_eq_countP_take.symm.trans (List.countPBefore_findIdxNth_of_lt_countP hd)
  exact ⟨L.idxOfNth l d, hlen, by rw [codeword, hlen, lenCount, hbefore]⟩

theorem leadingValue_lt (rd : Window) (off n : Nat) : leadingValue rd off n < 2 ^ n := by
  induction n with
  | zero => exact Nat.one_pos
  | succ n ih =>
    have hbit := Bool.toNat_lt (rd (off + n))
    simp only [leadingValue]
    omega

/-- The window begins with the codeword of a symbol present. -/
def BeginsWithCodeword (L : Code) (rd : Window) (off : Nat) : Prop :=
  ∃ s, L.getD s 0 ≠ 0 ∧ leadingValue rd off (L.getD s 0) = codeword L s

/-- First bits that do not lie before the codewords of their length are one of them or lie past them (R197). -/
theorem beginsWithCodeword_or_codesEnd_le_of_firstCode_le {l : Nat}
    (h : firstCode L (l + 1) ≤ leadingValue rd off (l + 1)) :
    BeginsWithCodeword L rd off ∨ firstCode L (l + 1) + lenCount L (l + 1) ≤ leadingValue rd off (l + 1) := by
  refine or_iff_not_imp_right.2 fun hend => ?_
  obtain ⟨s, hlen, hcode⟩ := exists_codeword_eq h (Nat.lt_of_not_le hend)
  exact ⟨s, hlen ▸ l.succ_ne_zero, by rw [hlen, hcode]⟩

/-- The window begins with a codeword, or its first `l + 1` bits lie past the codewords no longer than that (R198). -/
theorem beginsWithCodeword_or_codesEnd_le (L : Code) (rd : Window) (off l : Nat) :
    BeginsWithCodeword L rd off ∨ firstCode L (l + 1) + lenCount L (l + 1) ≤ leadingValue rd off (l + 1) := by
  induction l with
  | zero => exact beginsWithCodeword_or_codesEnd_le_of_firstCode_le (Nat.zero_le _)
  | succ l ih =>
    refine ih.elim .inl fun hpast => beginsWithCodeword_or_codesEnd_le_of_firstCode_le ?_
    simp only [firstCode, leadingValue] at hpast ⊢
    omega

/-- In a full tree every bit sequence begins with a codeword, since the codewords end at `2 ^ 15` (R196, R198). -/
theorem beginsWithCodeword_of_validCode (hL : validCode L = true) (hmany : codeSymbols L ≠ 1) (rd : Window)
    (off : Nat) : BeginsWithCodeword L rd off := by
  obtain ⟨hle, hone | ⟨-, hfull⟩⟩ := validCode_iff.1 hL
  · exact absurd hone hmany
  rw [← codesEnd_eq_kraftSum hle] at hfull
  exact (beginsWithCodeword_or_codesEnd_le L rd off 14).resolve_right fun hpast =>
    (leadingValue_lt rd off 15).not_ge (hfull ▸ hpast)

theorem exists_hasSymbol (h : codeSymbols L = 1) : ∃ s, hasSymbol L s = true := by
  obtain ⟨s, hs⟩ := Option.ne_none_iff_exists'.1 fun hnone => singleSymbol?_eq_none_iff.1 hnone h
  exact ⟨s, (singleSymbol?_eq_some_iff.1 hs).2⟩

/-- A valid code decodes every bit sequence (R195, R198). -/
theorem exists_decodeSymbol (hL : validCode L = true) (rd : Window) (off : Nat) :
    ∃ s, decodeSymbol L rd off = some (s, symbolBits L s) := by
  by_cases hone : codeSymbols L = 1
  · obtain ⟨s, hs⟩ := exists_hasSymbol hone
    exact ⟨s, decodeSymbol_of_startsWith hL hs (by simp [encodeSymbol, symbolBits, hone, bitsOf])⟩
  · obtain ⟨s, hs, hval⟩ := beginsWithCodeword_of_validCode hL hone rd off
    refine ⟨s, decodeSymbol_of_startsWith hL (hasSymbol_iff.2 hs) ?_⟩
    rw [encodeSymbol, symbolBits, if_neg hone]
    exact (startsWith_reverse_bitsOf_iff (codeword_lt_two_pow hL hone hs)).2 hval

/-! ## No codeword begins another -/

/-- The window over a list of bits begins with every list that begins it. -/
theorem startsWith_windowOfBits {bs cs : List Bool} (h : bs <+: cs) : startsWith (windowOfBits cs) 0 bs := by
  obtain ⟨ds, rfl⟩ := h
  have hself : startsWith (windowOfBits (bs ++ ds)) 0 (bs ++ ds) := fun k _ => by rw [Nat.zero_add]
  exact (startsWith_append.1 hself).1

/-- Over the bits of the longer codeword both symbols are the one decoded (R198). -/
theorem eq_of_encodeSymbol_prefix {s1 s2 : Nat} (hL : validCode L = true) (h1 : hasSymbol L s1 = true)
    (h2 : hasSymbol L s2 = true) (h : encodeSymbol L s1 <+: encodeSymbol L s2) : s1 = s2 := by
  have hdec1 := decodeSymbol_of_startsWith hL h1 (startsWith_windowOfBits h)
  have hdec2 := decodeSymbol_of_startsWith hL h2 (startsWith_windowOfBits (List.prefix_refl _))
  exact congrArg Prod.fst (Option.some.inj (hdec1.symm.trans hdec2))

theorem symbolBits_of_many (hmany : codeSymbols L ≠ 1) (s : Nat) : symbolBits L s = L.getD s 0 := if_neg hmany

/-! ## Canonical codewords -/

/-- The first codeword of a length counts the shorter codewords, doubled at each length transition (R197). -/
theorem firstCode_eq_sum (L : Code) (l : Nat) :
    firstCode L l = ((List.range l).map fun k => if k = 0 then 0 else L.count k * 2 ^ (l - k)).sum := by
  induction l with
  | zero => rfl
  | succ l ih =>
    cases l with
    | zero => rfl
    | succ l =>
      have hdouble : ((List.range (l + 1)).map fun k => if k = 0 then 0 else L.count k * 2 ^ (l + 1 + 1 - k)) =
          (List.range (l + 1)).map fun k => (if k = 0 then 0 else L.count k * 2 ^ (l + 1 - k)) * 2 := by
        refine List.map_congr_left fun k hk => ?_
        rw [Nat.succ_sub (List.mem_range.1 hk).le, ite_mul, zero_mul, pow_succ, mul_assoc]
      rw [List.range_succ, List.map_append, List.sum_append, hdouble, List.sum_map_mul_right, ← ih, firstCode, lenCount]
      simp [add_mul]

/-- Left-aligned, a codeword ends before every longer one begins (R197). -/
theorem codeword_succ_mul_le {s' : Nat} (hs : L.getD s 0 ≠ 0) (hlt : L.getD s 0 < L.getD s' 0) :
    (codeword L s + 1) * 2 ^ (L.getD s' 0 - L.getD s 0) ≤ codeword L s' := by
  obtain ⟨k, hk⟩ := Nat.exists_eq_add_of_lt hlt
  have hpow : L.getD s' 0 - L.getD s 0 = k + 1 := by omega
  calc (codeword L s + 1) * 2 ^ (L.getD s' 0 - L.getD s 0)
      ≤ (firstCode L (L.getD s 0) + lenCount L (L.getD s 0)) * 2 ^ (k + 1) :=
        hpow ▸ Nat.mul_le_mul_right _ (codeword_lt hs)
    _ ≤ firstCode L (L.getD s' 0) := hk ▸ codesEnd_le_firstCode L hs k
    _ ≤ codeword L s' := Nat.le_add_right _ _

end

/-- Settles O2: the tree is full, so some codeword fits; a symbol's bits decode to it; and the bits of one
symbol that begin another's decode to both. -/
theorem prefixProperty : Obligations.PrefixProperty := by
  intro L hL htwo
  have hmany : codeSymbols L ≠ 1 := by omega
  refine ⟨fun rd off => ?_, fun rd off s hs hbits => ?_, fun s1 s2 h1 h2 => eq_of_encodeSymbol_prefix hL h1 h2⟩
  · obtain ⟨s, hdec⟩ := exists_decodeSymbol hL rd off
    obtain ⟨hs, -, hbits⟩ := (decodeSymbol_eq_some_iff hL).1 hdec
    exact ⟨s, symbolBits_of_many hmany s ▸ hdec, lt_length_of_hasSymbol hs,
      Nat.one_le_iff_ne_zero.2 (hasSymbol_iff.1 hs), length_le_of_validCode hL s, hbits⟩
  · exact symbolBits_of_many hmany s ▸ decodeSymbol_of_startsWith hL hs hbits

/-- Settles O3: the codeword's closed form, its bound in a full tree, and the order of the lengths. -/
theorem canonicalCodewords : Obligations.CanonicalCodewords := by
  intro L s hL htwo hs
  have hne := hasSymbol_iff.1 hs
  exact ⟨by rw [codeword, firstCode_eq_sum, lenCount], codeword_lt_two_pow hL (by omega) hne,
    fun s' _ hlt => codeword_succ_mul_le hne hlt⟩

end Sys2Proof
end

section
/-! PROOFS, family 42_huffman: what each element of a code does where the grammar puts it, said once, and the end of a
code (O4), the normal code's header (O21), token count (O22), tokens (O23) and end (O24), and HUFF_DECODE (O26)
(spec/42_huffman.md R186 to R200). -/

namespace Sys2Proof.Machine

/-! ## The end of a code -/

section
variable {L : Code} {m : Img} {s : State}

theorem isEos_eq_false_iff (s : State) : isEos s = false ↔ s.pos ≤ 8 * s.inLen.toNat := by simp [isEos]

theorem finishCode_of_eos (heos : 8 * s.inLen.toNat < s.pos) :
    finishCode L m s = abort .unexpectedEndOfStream s :=
  finishCode_next.2 (.inl ⟨(isEos_iff s).2 heos, rfl⟩)

theorem finishCode_of_invalid (hin : s.pos ≤ 8 * s.inLen.toNat) (hL : validCode L = false) :
    finishCode L m s = abort .invalidHuffmanCode s :=
  finishCode_next.2 (.inr (.inl ⟨(isEos_eq_false_iff s).2 hin, hL, rfl⟩))

theorem finishCode_of_valid (hin : s.pos ≤ 8 * s.inLen.toNat) (hL : validCode L = true) :
    finishCode L m s = .next (pushCode L m s) :=
  finishCode_next.2 (.inr (.inr ⟨(isEos_eq_false_iff s).2 hin, hL, rfl⟩))

end

section
variable (L : Code)

theorem codeSymbols_eq_length_filter : codeSymbols L = (L.filter (· ≠ 0)).length := by
  rw [codeSymbols, ← List.countP_eq_length_filter]
  exact List.countP_congr fun l _ => by simp

theorem kraftSum_eq_sum_filter : kraftSum L = ((L.filter (· ≠ 0)).map fun l => 2 ^ (15 - l)).sum := by
  induction L with
  | nil => rfl
  | cons l ls ih =>
    rw [kraftSum, List.map_cons, List.sum_cons, ← kraftSum, ih]
    by_cases hl : l = 0 <;> simp [hl]

end

/-- A code of one symbol decodes to it without a bit (R195). -/
theorem decodeSymbol_of_single {L : Code} {s : Nat} (hone : codeSymbols L = 1) (hs : hasSymbol L s = true) (rd : Window)
    (off : Nat) : decodeSymbol L rd off = some (s, 0) := by
  simp only [decodeSymbol, singleSymbol?_eq_some_iff.2 ⟨hone, hs⟩]

/-- Settles O4: BuildCode's checks in terms of the lengths present, and the decoding of a one-symbol code. -/
theorem buildCodeChecks : Obligations.BuildCodeChecks := by
  intro L
  dsimp only
  rw [← kraftSum_eq_sum_filter, ← codeSymbols_eq_length_filter, ← validCode_iff]
  refine ⟨fun m s hin => ⟨finishCode_of_valid hin, fun hL => ?_⟩, Iff.rfl,
    fun s rd off hone hs => decodeSymbol_of_single hone (hasSymbol_iff.2 hs) rd off⟩
  rw [finishCode_of_invalid hin (Bool.eq_false_of_not_eq_true hL)]
  exact endsJob_abort_advance _ 0 s

/-! ## The header of a normal code -/

section
variable {cl : Code} {ord : List Nat} {lens : List (BitVec 3)}

/-- The code-length code after the lengths `lens` are given to the tokens `ord`, in order (R186). -/
def withLengths (ord : List Nat) (lens : List (BitVec 3)) (cl : Code) : Code :=
  (ord.zip lens).foldl (fun cl tl => cl.set tl.1 tl.2.toNat) cl

theorem clLengths_eq (lens : List (BitVec 3)) : clLengths lens = withLengths clOrder lens (List.replicate 19 0) := rfl

theorem withLengths_cons (t : Nat) (x : BitVec 3) :
    withLengths (t :: ord) (x :: lens) cl = withLengths ord lens (cl.set t x.toNat) := rfl

theorem getD_set_of_ne {t u : Nat} (l : Nat) (h : t ≠ u) : (cl.set t l).getD u 0 = cl.getD u 0 := by
  simp only [List.getD_eq_getElem?_getD, List.getElem?_set_ne h]

/-- A token not in the order keeps its length. -/
theorem withLengths_getD_of_notMem {t : Nat} (ht : t ∉ ord) : (withLengths ord lens cl).getD t 0 = cl.getD t 0 := by
  induction ord generalizing lens cl with
  | nil => rfl
  | cons u us ih =>
    obtain ⟨hne, hus⟩ := not_or.1 (List.mem_cons.not.1 ht)
    cases lens with
    | nil => rfl
    | cons x xs => rw [withLengths_cons, ih hus, getD_set_of_ne _ (Ne.symm hne)]

/-- The token at place `j` of the order gets the `j`-th length sent, and keeps its own after the last one (R186). -/
theorem withLengths_getD_order {j : Nat} (hnodup : ord.Nodup) (hj : j < ord.length) (hlt : ∀ t ∈ ord, t < cl.length) :
    (withLengths ord lens cl).getD (ord.getD j 0) 0 =
      if j < lens.length then (lens.getD j 0).toNat else cl.getD (ord.getD j 0) 0 := by
  induction ord generalizing lens cl j with
  | nil => cases hj
  | cons t ts ih =>
    obtain ⟨hnot, hnodup⟩ := List.nodup_cons.1 hnodup
    obtain ⟨ht, hts⟩ := List.forall_mem_cons.1 hlt
    cases lens with
    | nil => rfl
    | cons x xs =>
      rw [withLengths_cons]
      cases j with
      | zero => rw [List.getD_cons_zero, withLengths_getD_of_notMem hnot]; simp [ht]
      | succ j =>
        have hj' : j < ts.length := Nat.lt_of_succ_lt_succ hj
        have hne : t ≠ ts.getD j 0 := by
          rintro rfl
          rw [List.getD_eq_getElem _ _ hj'] at hnot
          exact hnot (List.getElem_mem hj')
        rw [List.getD_cons_succ, ih hnodup hj' (by simpa using hts), getD_set_of_ne _ hne]
        simp

/-- A length of three bits is at most 7, so every code-length code is within BuildCode's limit (R194). -/
theorem withLengths_le (h : ∀ l ∈ cl, l ≤ 15) : ∀ l ∈ withLengths ord lens cl, l ≤ 15 := by
  induction ord generalizing lens cl with
  | nil => exact h
  | cons t ts ih =>
    cases lens with
    | nil => exact h
    | cons x xs =>
      refine ih fun l hl => (List.mem_or_eq_of_mem_set hl).elim (h l) ?_
      rintro rfl
      have hx := x.isLt
      omega

end

theorem clLengths_le (lens : List (BitVec 3)) : ∀ l ∈ clLengths lens, l ≤ 15 :=
  withLengths_le fun l hl => by simp [List.eq_of_mem_replicate hl]

/-- HCODE_NORMAL builds the code-length code at once (R187). -/
theorem exec_hcodeNormal {k : BitVec 4} {lens : List (BitVec 3)} {s : State} {m : Img} (hst : s.stage = .hcode)
    (hm : curImg s = some m) :
    exec (.hcodeNormal k lens) s =
      if validCode (clLengths lens) then
        .next { advance (5 + 3 * (k.toNat + 4)) s with stage := .maxsym (clLengths lens) }
      else abort .invalidHuffmanCode (advance (5 + 3 * (k.toNat + 4)) s) := by
  simp only [exec, execHcodeNormal, whenStage, withImg, hst, hm, decide_true, if_true]

/-- Settles O21: each token's length by its place in ORDER, and BuildCode on them. -/
theorem normalCodeHeader : Obligations.NormalCodeHeader := by
  intro k lens s hlen hst hm
  obtain ⟨m, hm⟩ := Option.isSome_iff_exists.1 hm
  refine ⟨clLengths lens, clLengths_length lens, fun j hj => ?_, fun hcl => ?_, fun hcl => ?_, fun hone => ⟨?_, ?_⟩⟩
  · rw [← hlen, clLengths_eq]
    refine (withLengths_getD_order (by decide) hj (by decide)).trans ?_
    split_ifs
    · rfl
    · exact List.getElem?_getD_replicate_default_eq 0 19 _
  · rw [exec_hcodeNormal hst hm, if_pos hcl]; rfl
  · rw [exec_hcodeNormal hst hm, if_neg (by simp [hcl])]
    exact endsJob_abort_advance _ _ s
  · exact validCode_iff.2 ⟨clLengths_le lens, .inl hone⟩
  · exact fun tok rd off hne => decodeSymbol_of_single hone (hasSymbol_iff.2 hne) rd off

/-! ## The token count -/

section
variable {s : State} {cl : Code} {m : Img}

theorem exec_maxsymOff (hst : s.stage = .maxsym cl) (hm : curImg s = some m) :
    exec .maxsymOff s = .next { advance 1 s with stage := .token cl [] (nextAlphabet m) 8 } := by
  simp [exec, execMaxsymOff, atMaxsym, withImg, hst, hm, beginTokens]

theorem exec_maxsymOn {n : BitVec 3} {e : Nat} (hst : s.stage = .maxsym cl) (hm : curImg s = some m) :
    exec (.maxsymOn n e) s =
      if nextAlphabet m < 2 + e then abort .invalidHuffmanCode (advance (4 + (2 + 2 * n.toNat)) s)
      else .next { advance (4 + (2 + 2 * n.toNat)) s with stage := .token cl [] (2 + e) 8 } := by
  have hbits : 6 + 2 * n.toNat = 4 + (2 + 2 * n.toNat) := Nat.add_assoc 4 2 _
  simp only [exec, execMaxsymOn, atMaxsym, withImg, hst, hm, beginTokens, hbits]

end

/-- Settles O22: the token loop begins with the count, unless it is over the alphabet's size. -/
theorem maxsymElements : Obligations.MaxsymElements := by
  intro s cl m n e hst hm _
  rw [exec_maxsymOff hst hm, exec_maxsymOn hst hm]
  refine ⟨rfl, fun hfits => ?_, fun hover => ?_⟩
  · rw [if_neg (Nat.not_lt.2 hfits)]; rfl
  · rw [if_pos hover]
    exact endsJob_abort_advance _ _ s

/-! ## The code-length tokens -/

/-- Token `tok` with `eb` extra bits appends the lengths `new`, after which the previous length is `prev'` (R190 to
R193). -/
inductive TokenGives (prev : Nat) : Instr → (tok eb : Nat) → (new : List Nat) → (prev' : Nat) → Prop
  | lit (x : BitVec 4) : TokenGives prev (.clLit x) x.toNat 0 [x.toNat] (if x = 0 then prev else x.toNat)
  | rep16 (e : BitVec 2) : TokenGives prev (.clRep16 e) 16 2 (List.replicate (3 + e.toNat) prev) prev
  | zero17 (e : BitVec 3) : TokenGives prev (.clZero17 e) 17 3 (List.replicate (3 + e.toNat) 0) prev
  | zero18 (e : BitVec 7) : TokenGives prev (.clZero18 e) 18 7 (List.replicate (11 + e.toNat) 0) prev

section
variable {s : State} {cl : Code} {lens new : List Nat} {left prev prev' tok eb : Nat} {m : Img} {i : Instr}

theorem exec_clLit (x : BitVec 4) (hst : s.stage = .token cl lens left prev) (hm : curImg s = some m) :
    exec (.clLit x) s =
      nextToken cl (lens ++ [x.toNat]) (left - 1) (if x = 0 then prev else x.toNat) m
        (advance (symbolBits cl x.toNat) s) := by
  simp only [exec, execClLit, atToken, withImg, hst, hm]

theorem runToken_eq (rep : Nat) (len : Nat → Nat) (hst : s.stage = .token cl lens left prev) (hm : curImg s = some m) :
    runToken tok eb rep len s =
      if nextAlphabet m < lens.length + rep then abort .invalidHuffmanCode (advance (symbolBits cl tok + eb) s)
      else nextToken cl (lens ++ List.replicate rep (len prev)) (left - 1) prev m
        (advance (symbolBits cl tok + eb) s) := by
  simp only [runToken, atToken, withImg, hst, hm]

/-- Every token appends its lengths, or fails past the end of the alphabet (R190 to R193). -/
theorem exec_token (hi : TokenGives prev i tok eb new prev') (hst : s.stage = .token cl lens left prev)
    (hm : curImg s = some m) (hroom : lens.length < nextAlphabet m) :
    exec i s =
      if nextAlphabet m < (lens ++ new).length then abort .invalidHuffmanCode (advance (symbolBits cl tok + eb) s)
      else nextToken cl (lens ++ new) (left - 1) prev' m (advance (symbolBits cl tok + eb) s) := by
  rw [List.length_append]
  cases hi with
  | lit x => exact (exec_clLit x hst hm).trans (if_neg (Nat.not_lt.2 hroom)).symm
  | rep16 | zero17 | zero18 => rw [List.length_replicate]; exact runToken_eq _ _ hst hm

theorem nextToken_of_more (hroom : lens.length < nextAlphabet m) (hleft : left ≠ 0) :
    nextToken cl lens left prev m s = .next { s with stage := .token cl lens left prev } :=
  if_pos ⟨hroom, hleft⟩

/-- With the alphabet full or no token left, the lengths not written are 0 (R189). -/
theorem nextToken_of_end (hend : lens.length = nextAlphabet m ∨ left = 0) :
    nextToken cl lens left prev m s =
      finishCode (lens ++ List.replicate (nextAlphabet m - lens.length) 0) m s :=
  if_neg (by omega)

end

/-- Settles O23: each token is one of `TokenGives`, and the next follows while there is room and a token is left. -/
theorem codeLengthTokens : Obligations.CodeLengthTokens := by
  intro i tok eb left prev prev' lens new s cl m hst hm hroom hi
  have hgives : TokenGives prev i tok eb new prev' := by
    obtain ⟨x, rfl, rfl, rfl, rfl, rfl⟩ | ⟨e, rfl, rfl, rfl, rfl, rfl⟩ | ⟨e, rfl, rfl, rfl, rfl, rfl⟩ |
      ⟨e, rfl, rfl, rfl, rfl, rfl⟩ := hi
    · exact .lit x
    · exact .rep16 e
    · exact .zero17 e
    · exact .zero18 e
  rw [exec_token hgives hst hm hroom]
  refine ⟨fun hfits => if_neg (Nat.not_lt.2 hfits), fun hmore hleft => ?_, fun hover => ?_⟩
  · rw [if_neg hmore.not_gt, nextToken_of_more hmore (by omega)]; rfl
  · rw [if_pos hover]
    exact endsJob_abort_advance _ _ s

/-- A list that reads as a shorter one, with 0 after its end, is it with zeros appended. -/
theorem eq_append_replicate_zero {L lens : List Nat} {A : Nat} (hA : L.length = A) (hle : lens.length ≤ A)
    (hget : ∀ j, L.getD j 0 = lens.getD j 0) : L = lens ++ List.replicate (A - lens.length) 0 := by
  refine List.ext_getElem (by simp [hA, hle]) fun j hj hj' => ?_
  have hj0 := hget j
  rw [List.getD_eq_getElem _ _ hj] at hj0
  rw [hj0]
  by_cases hlt : j < lens.length
  · rw [List.getD_eq_getElem _ _ hlt, List.getElem_append_left hlt]
  · have hge := Nat.not_lt.1 hlt
    rw [List.getD_eq_default _ _ hge, List.getElem_append_right hge, List.getElem_replicate]

/-- Settles O24: the last token leads to the end of the code, whose three outcomes are `finishCode`'s. -/
theorem codeEnd : Obligations.CodeEnd := by
  intro i tok eb left prev lens new s cl L m hst hm hroom hi hfits hend hlen hget
  have hgives : ∃ prev', TokenGives prev i tok eb new prev' := by
    obtain ⟨x, rfl, rfl, rfl, rfl⟩ | ⟨e, rfl, rfl, rfl, rfl⟩ | ⟨e, rfl, rfl, rfl, rfl⟩ | ⟨e, rfl, rfl, rfl, rfl⟩ := hi
    · exact ⟨_, .lit x⟩
    · exact ⟨_, .rep16 e⟩
    · exact ⟨_, .zero17 e⟩
    · exact ⟨_, .zero18 e⟩
  obtain ⟨prev', hgives⟩ := hgives
  rw [exec_token hgives hst hm hroom, if_neg (Nat.not_lt.2 hfits), nextToken_of_end (by omega),
    ← eq_append_replicate_zero hlen hfits hget]
  refine ⟨fun heos => ?_, fun hin hL => ?_, fun hin hL => finishCode_of_valid (s := advance _ s) hin hL⟩
  · rw [finishCode_of_eos (s := advance _ s) heos]
    exact endsJob_abort_advance _ _ s
  · rw [finishCode_of_invalid (s := advance _ s) hin hL]
    exact endsJob_abort_advance _ _ s

/-! ## Decoding a symbol -/

/-- Settles O26: the selector names the code in force, and a valid code decodes every bit sequence. -/
theorem huffDecodeReads : Obligations.HuffDecodeReads := by
  intro c s L hL hc
  have hsel : selectedCode c s = some L := by
    obtain ⟨rfl, hst⟩ | ⟨lens, left, prev, rfl, hst⟩ | ⟨gi, j, m, rfl, -, hm, hcode⟩ := hc
    · simp only [selectedCode, hst]
    · simp only [selectedCode, hst]
    · simp only [selectedCode, hm]; exact hcode
  obtain ⟨sym, hdec⟩ := exists_decodeSymbol hL (window s) 0
  obtain ⟨hs, -, hbits⟩ := (decodeSymbol_eq_some_iff hL).1 hdec
  refine ⟨sym, lt_length_of_hasSymbol hs, hasSymbol_iff.1 hs, hbits, ?_⟩
  simp only [exec, execHuffDecode, hsel, hdec]
  rfl

end Sys2Proof.Machine
end

section
/-! PROOFS, family 42_huffman: the simple code forms (O20) (spec/42_huffman.md R180 to R185). -/

namespace Sys2Proof.Machine

/-! ## The lengths of a simple code -/

/-- Length 1 for each of the symbols `xs` that an alphabet of `A` symbols has (R180). -/
def simpleLengths (A : Nat) (xs : List Nat) : Code := (List.range A).map fun j => if j ∈ xs then 1 else 0

section
variable (A : Nat) (xs : List Nat)

@[simp] theorem simpleLengths_length : (simpleLengths A xs).length = A := by simp [simpleLengths]

theorem simpleLengths_succ :
    simpleLengths (A + 1) xs = simpleLengths A xs ++ [if A ∈ xs then 1 else 0] := by
  simp [simpleLengths, List.range_succ]

theorem simpleSet_simpleLengths (x : Nat) : simpleSet (simpleLengths A xs) x = simpleLengths A (xs ++ [x]) := by
  refine List.ext_getElem (by simp) fun j _ _ => ?_
  by_cases hj : x = j
  · simp [simpleSet, simpleLengths, hj]
  · simp [simpleSet, simpleLengths, hj, Ne.symm hj]

/-- SimpleSet for each symbol in turn gives a simple code's lengths (R180). -/
theorem foldl_simpleSet_eq : xs.foldl simpleSet (List.replicate A 0) = simpleLengths A xs := by
  induction xs using List.reverseRecOn with
  | nil => simp [simpleLengths, List.map_const']
  | append_singleton xs x ih => rw [List.foldl_append, ih]; exact simpleSet_simpleLengths A xs x

theorem codeSymbols_simpleLengths : codeSymbols (simpleLengths A xs) = Nat.count (· ∈ xs) A := by
  induction A with
  | zero => rfl
  | succ A ih =>
    rw [simpleLengths_succ, Nat.count_succ, ← ih]
    split_ifs <;> simp [codeSymbols]

theorem lenCount_one_simpleLengths : lenCount (simpleLengths A xs) 1 = Nat.count (· ∈ xs) A := by
  induction A with
  | zero => rfl
  | succ A ih =>
    rw [simpleLengths_succ, Nat.count_succ, ← ih]
    split_ifs <;> simp [lenCount]

theorem kraftSum_simpleLengths : kraftSum (simpleLengths A xs) = Nat.count (· ∈ xs) A * 2 ^ 14 := by
  induction A with
  | zero => simp [simpleLengths, kraftSum]
  | succ A ih =>
    rw [simpleLengths_succ, Nat.count_succ, add_mul, ← ih]
    split_ifs <;> simp [kraftSum]

theorem simpleLengths_le : ∀ l ∈ simpleLengths A xs, l ≤ 15 := by
  simp only [simpleLengths, List.forall_mem_map]
  intro j _
  split_ifs <;> decide

/-- The alphabet has at most as many of the symbols as are given. -/
theorem count_mem_le_length : Nat.count (· ∈ xs) A ≤ xs.length := by
  rw [Nat.count, List.countP_eq_length_filter]
  refine (List.subperm_of_subset (List.nodup_range.filter _) fun j hj => ?_).length_le
  simpa using (List.mem_filter.1 hj).2

end

section
variable {A x : Nat} {xs : List Nat}

/-- One or two symbols make a valid code, of one symbol or full; none makes no code (R181 to R185, R194). -/
theorem validCode_simpleLengths_iff (hxs : xs.length ≤ 2) :
    validCode (simpleLengths A xs) = true ↔ ∃ x ∈ xs, x < A := by
  have hle := count_mem_le_length A xs
  have hsome : Nat.count (· ∈ xs) A ≠ 0 ↔ ∃ x ∈ xs, x < A :=
    Nat.count_ne_iff_exists.trans (exists_congr fun _ => and_comm)
  rw [← hsome, validCode_iff, codeSymbols_simpleLengths, kraftSum_simpleLengths,
    and_iff_right (simpleLengths_le A xs)]
  omega

theorem simpleLengths_getD (hx : x ∈ xs) (hA : x < A) : (simpleLengths A xs).getD x 0 = 1 := by
  simp [simpleLengths, hx, hA]

/-- A symbol alone in the alphabet is the code's only one. -/
theorem codeSymbols_simpleLengths_eq_one_iff (hx : x ∈ xs) (hA : x < A) :
    codeSymbols (simpleLengths A xs) = 1 ↔ ¬ ∃ y ∈ xs, y < A ∧ y ≠ x := by
  rw [codeSymbols_simpleLengths]
  have hxA := Nat.count_strict_mono (p := (· ∈ xs)) hx hA
  constructor
  · rintro hone ⟨y, hy, hyA, hne⟩
    have hyA' := Nat.count_strict_mono (p := (· ∈ xs)) hy hyA
    exact hne (Nat.count_injective (p := (· ∈ xs)) hy hx (by omega))
  · intro hno
    have hbefore : Nat.count (· ∈ xs) x = 0 :=
      Nat.count_iff_forall_not.2 fun y hlt hy => hno ⟨y, hy, hlt.trans hA, hlt.ne⟩
    have hafter : Nat.count (· ∈ xs) A ≤ Nat.count (· ∈ xs) (x + 1) := by
      refine Nat.le_of_not_lt fun hlt => ?_
      obtain ⟨y, ⟨hxy, hyA⟩, hy⟩ := Nat.exists_of_count_lt_count hlt
      exact hno ⟨y, hy, hyA, Nat.ne_of_gt hxy⟩
    rw [Nat.count_succ, if_pos hx] at hafter
    omega

/-- Two symbols take one bit each, one alone none (R181 to R184). -/
theorem symbolBits_simpleLengths (hx : x ∈ xs) (hA : x < A) :
    symbolBits (simpleLengths A xs) x = if ∃ y ∈ xs, y < A ∧ y ≠ x then 1 else 0 := by
  rw [symbolBits, simpleLengths_getD hx hA]
  simp only [codeSymbols_simpleLengths_eq_one_iff hx hA, ite_not]

/-- A symbol's codeword counts the smaller ones. -/
theorem codeword_simpleLengths_eq_count (hx : x ∈ xs) (hA : x < A) :
    codeword (simpleLengths A xs) x = Nat.count (· ∈ xs) x := by
  have htake : (simpleLengths A xs).take x = simpleLengths x xs := by
    rw [simpleLengths, ← List.map_take, List.take_range, Nat.min_eq_left hA.le, simpleLengths]
  rw [codeword, simpleLengths_getD hx hA, htake, lenCount_one_simpleLengths]
  exact Nat.zero_add _

/-- The smaller of two symbols has codeword 0, the larger 1 (R183, R184). -/
theorem codeword_simpleLengths (hxs : xs.length ≤ 2) (hx : x ∈ xs) (hA : x < A) :
    codeword (simpleLengths A xs) x = if ∃ y ∈ xs, y < A ∧ y < x then 1 else 0 := by
  have hle : Nat.count (· ∈ xs) x < 2 :=
    (Nat.count_strict_mono (p := (· ∈ xs)) hx hA).trans_le ((count_mem_le_length A xs).trans hxs)
  have hsmaller : Nat.count (· ∈ xs) x ≠ 0 ↔ ∃ y ∈ xs, y < A ∧ y < x := by
    refine Nat.count_ne_iff_exists.trans (exists_congr fun y => ?_)
    exact ⟨fun ⟨hlt, hy⟩ => ⟨hy, hlt.trans hA, hlt⟩, fun ⟨hy, _, hlt⟩ => ⟨hlt, hy⟩⟩
  rw [codeword_simpleLengths_eq_count hx hA]
  simp only [← hsmaller]
  split_ifs <;> omega

end

/-! ## The elements -/

/-- The simple form of `n` bits that gives its code the symbols `xs` (R181 to R184). -/
inductive SimpleForm : Instr → (xs : List Nat) → (n : Nat) → Prop
  | s1b1 (x : BitVec 1) : SimpleForm (.hcodeS1b1 x) [x.toNat] 4
  | s1b8 (x : BitVec 8) : SimpleForm (.hcodeS1b8 x) [x.toNat] 11
  | s2b1 (x : BitVec 1) (y : BitVec 8) : SimpleForm (.hcodeS2b1 x y) [x.toNat, y.toNat] 12
  | s2b8 (x y : BitVec 8) : SimpleForm (.hcodeS2b8 x y) [x.toNat, y.toNat] 19

section
variable {i : Instr} {xs : List Nat} {n : Nat} {s : State} {m : Img}

theorem SimpleForm.length_le (h : SimpleForm i xs n) : xs.length ≤ 2 := by cases h <;> simp

/-- Each simple form ends its code at once (R180). -/
theorem exec_simpleForm (h : SimpleForm i xs n) (hst : s.stage = .hcode) (hm : curImg s = some m) :
    exec i s = finishCode (simpleLengths (nextAlphabet m) xs) m (advance n s) := by
  have hsimple : exec i s = simpleCode xs n s := by cases h <;> rfl
  simp only [hsimple, simpleCode, whenStage, withImg, hst, hm, foldl_simpleSet_eq, decide_true, if_true]

end

/-- Settles O20: the code's lengths are `simpleLengths`, which end it by `finishCode`, and their codewords. -/
theorem simpleCodesRead : Obligations.SimpleCodesRead := by
  intro i xs n s m L hi hst hm hL
  have hform : SimpleForm i xs n := by
    obtain ⟨x, rfl, rfl, rfl⟩ | ⟨x, rfl, rfl, rfl⟩ | ⟨x, y, rfl, rfl, rfl⟩ | ⟨x, y, rfl, rfl, rfl⟩ := hi
    · exact .s1b1 x
    · exact .s1b8 x
    · exact .s2b1 x y
    · exact .s2b8 x y
  obtain rfl : L = simpleLengths (nextAlphabet m) xs := hL
  have hvalid := validCode_simpleLengths_iff (A := nextAlphabet m) hform.length_le
  rw [exec_simpleForm hform hst hm]
  refine ⟨fun heos => ?_, fun hin hnone => ?_, fun hin hsome => ⟨?_, fun x hx hA => ?_⟩⟩
  · rw [finishCode_of_eos (s := advance n s) heos]
    exact endsJob_abort_advance _ n s
  · have hbad : validCode (simpleLengths (nextAlphabet m) xs) = false :=
      Bool.eq_false_iff.2 fun hgood => by
        obtain ⟨x, hx, hA⟩ := hvalid.1 hgood
        exact hA.not_ge (hnone x hx)
    rw [finishCode_of_invalid (s := advance n s) hin hbad]
    exact endsJob_abort_advance _ n s
  · exact finishCode_of_valid (s := advance n s) hin (hvalid.2 hsome)
  · exact ⟨symbolBits_simpleLengths hx hA, codeword_simpleLengths hform.length_le hx hA⟩

end Sys2Proof.Machine
end

section
/-! PROOFS, family 42_huffman: with the invariant the codes and contexts a rule names exist, every codeword fits, and no
step stops but for capacity (O51) (spec/42_huffman.md R198, spec/45_sequencer.md R320). -/

namespace Sys2Proof

/-! ## Every window decodes -/

section
variable {cl green red blue alpha dist : Code}

theorem exists_decodeToken (hcl : validCode cl = true) (rd : Window) : ∃ i, decodeToken cl rd = .ok i := by
  obtain ⟨tok, hdec⟩ := exists_decodeSymbol hcl rd 0
  simp only [decodeToken, hdec]
  split_ifs <;> exact ⟨_, rfl⟩

theorem exists_decodeLiteral (hred : validCode red = true) (hblue : validCode blue = true)
    (halpha : validCode alpha = true) (rd : Window) (g n : Nat) :
    ∃ i, decodeLiteral red blue alpha rd g n = .ok i := by
  obtain ⟨r, hr⟩ := exists_decodeSymbol hred rd n
  obtain ⟨b, hb⟩ := exists_decodeSymbol hblue rd (n + symbolBits red r)
  obtain ⟨a, ha⟩ := exists_decodeSymbol halpha rd (n + symbolBits red r + symbolBits blue b)
  simp only [decodeLiteral, hr, hb, ha]
  exact ⟨_, rfl⟩

theorem exists_decodeBackref (hdist : validCode dist = true) (rd : Window) (g n : Nat) :
    ∃ i, decodeBackref dist rd g n = .ok i := by
  obtain ⟨d, hd⟩ := exists_decodeSymbol hdist rd (n + extraBits (g - 256))
  simp only [decodeBackref, hd]
  exact ⟨_, rfl⟩

theorem exists_decodePixel (hfit : (Ctx.pixel green red blue alpha dist).codesFit) (rd : Window) :
    ∃ i, decodePixel green red blue alpha dist rd = .ok i := by
  obtain ⟨hgreen, hred, hblue, halpha, hdist⟩ := hfit
  obtain ⟨g, hg⟩ := exists_decodeSymbol hgreen.1 rd 0
  simp only [decodePixel, hg]
  split_ifs
  · exact exists_decodeLiteral hred.1 hblue.1 halpha.1 rd _ _
  · exact exists_decodeBackref hdist.1 rd _ _
  · exact ⟨_, rfl⟩

end

/-- With valid codes in force every window decodes (R198). -/
theorem exists_decode {c : Ctx} (hfit : c.codesFit) (rd : Window) : ∃ i, decode c rd = .ok i := by
  cases c with
  | token => exact exists_decodeToken hfit.1 rd
  | pixel => exact exists_decodePixel hfit rd
  | _ => exact ⟨_, rfl⟩

namespace Machine

/-! ## The contexts, groups and codes at a position -/

section
variable {s : State} {m : Img}

/-- At every position but three an image is being decoded (R82). -/
theorem exists_curImg_of_stage (h : positionOk s = true)
    (hst : ¬ (s.stage = .idle ∨ s.stage = .header ∨ s.stage = .xform)) : ∃ m, curImg s = some m := by
  refine Option.ne_none_iff_exists'.1 fun hnone => hst ?_
  have hno : s.nested = none ∧ s.img0 = none := by
    cases hn : s.nested <;> simp_all [curImg]
  obtain ⟨-, hidle, -⟩ | ⟨-, hhdr, -⟩ | ⟨-, hxf⟩ := (positionOk_noImage_iff hno.1 hno.2).1 h
  · exact .inl hidle
  · exact .inr (.inl hhdr)
  · exact .inr (.inr hxf)

/-- A job that runs has a grammar position (R30). -/
theorem stage_ne_idle_of_running (h : positionOk s = true) (hrun : s.phase.running = true) : s.stage ≠ .idle := by
  intro hst
  obtain ⟨hn, h0⟩ := noImage_of_stage h (.inl hst)
  obtain ⟨hstop, -⟩ | ⟨-, hst', -⟩ | ⟨-, hst'⟩ := (positionOk_noImage_iff hn h0).1 h
  · simp [hrun] at hstop
  · simp [hst] at hst'
  · simp [hst] at hst'

/-- META_* is read and the job is finished at level 0 (R140, R314). -/
theorem exists_level0_of_stage (h : positionOk s = true) (hst : s.stage = .metaBit ∨ s.stage = .finish) :
    ∃ m, s.img0 = some m := by
  obtain ⟨m, hm⟩ := exists_curImg_of_stage h (by rcases hst with hst | hst <;> simp [hst])
  obtain ⟨-, -, ⟨-, -, h0, -⟩ | ⟨-, -, u, -, ⟨-, -, huse⟩ | ⟨-, m0, h0, -⟩⟩⟩ := positionOk_curImg h hm
  · exact ⟨m, h0⟩
  · cases u <;> rcases hst with hst | hst <;> simp [hst, useOk] at huse
  · exact ⟨m0, h0⟩

/-- Only a palette waits for PALETTE_EXPAND (R148). -/
theorem exists_palette_of_stage (h : positionOk s = true) (hst : s.stage = .palette) :
    ∃ wb m, s.nested = some ⟨.palette wb, m⟩ := by
  obtain ⟨m, hm⟩ := exists_curImg_of_stage h (by simp [hst])
  obtain ⟨-, -, ⟨-, -, -, -, hph⟩ | ⟨-, -, u, hn, ⟨-, -, huse⟩ | ⟨-, m0, -, -, -, hmap⟩⟩⟩ := positionOk_curImg h hm
  · simp [hst, level0Phase] at hph
  · cases u with
    | palette wb => exact ⟨wb, m, hn⟩
    | _ => simp [hst, useOk] at huse
  · cases u <;> simp [hst, groupMapOk] at hmap

/-- The meta image is decoded for the groups of level 0 (R155). -/
theorem exists_level0_of_groupMap {mb : Nat} (h : positionOk s = true) (hn : s.nested = some ⟨.groupMap mb, m⟩) :
    ∃ m0, s.img0 = some m0 := by
  obtain ⟨-, ⟨-, -, huse⟩ | ⟨-, m0, h0, -⟩⟩ := (positionOk_nested_iff hn).1 h
  · cases huse
  · exact ⟨m0, h0⟩

/-- The pixel's tile has an index, that of one of the groups (R221). -/
theorem exists_groupAt {x y : Nat} (hgroups : 1 ≤ m.ngroups) (hmap : mapOk m = true) (hx : x < m.xs) (hy : y < m.ys) :
    ∃ gi < m.ngroups, groupAt m x y = some gi := by
  simp only [mapOk, Bool.or_eq_true, Bool.and_eq_true, beq_iff_eq, List.all_eq_true, decide_eq_true_eq] at hmap
  unfold groupAt
  split_ifs with hbits
  · exact ⟨0, hgroups, rfl⟩
  obtain ⟨⟨⟨-, hwidth⟩, hlen⟩, hall⟩ := hmap.resolve_left hbits
  have hlt : (y >>> m.mt.bits) * m.mt.xs + (x >>> m.mt.bits) < m.mt.idx.length := by
    rw [hlen, hwidth]
    exact tileIndex_lt m.mt.bits hx hy
  exact ⟨_, hall _ (List.getElem_mem hlt), List.getElem?_eq_getElem hlt⟩

/-- An image with pixels left has a next one, inside it. -/
theorem nextPixel_lt (hroom : m.pos < m.size) : m.pos % m.xs < m.xs ∧ m.pos / m.xs < m.ys :=
  ⟨Nat.mod_lt _ (Nat.pos_of_mul_pos_right (Nat.zero_lt_of_lt hroom)), Nat.div_lt_of_lt_mul hroom⟩

theorem exists_code {gi j : Nat} (hcodes : m.codes.length = 5 * m.ngroups) (hgi : gi < m.ngroups) (hj : j < 5) :
    ∃ L, m.code gi j = some L :=
  ⟨_, List.getElem?_eq_getElem (by omega)⟩

/-- The codes in force at the next pixel exist (R221). -/
theorem exists_pixelCodes (hok : imgOk m = true) (hcodes : m.codes.length = 5 * m.ngroups) (hroom : m.pos < m.size) :
    ∃ green red blue alpha dist, pixelCodes m = some (green, red, blue, alpha, dist) := by
  obtain ⟨-, -, hgroups, -, hmap, -⟩ := (imgOk_iff m).1 hok
  obtain ⟨hx, hy⟩ := nextPixel_lt hroom
  obtain ⟨gi, hgi, hgroup⟩ := exists_groupAt hgroups hmap hx hy
  obtain ⟨green, h0⟩ := exists_code hcodes hgi (j := 0) (by decide)
  obtain ⟨red, h1⟩ := exists_code hcodes hgi (j := 1) (by decide)
  obtain ⟨blue, h2⟩ := exists_code hcodes hgi (j := 2) (by decide)
  obtain ⟨alpha, h3⟩ := exists_code hcodes hgi (j := 3) (by decide)
  obtain ⟨dist, h4⟩ := exists_code hcodes hgi (j := 4) (by decide)
  exact ⟨green, red, blue, alpha, dist, by simp only [pixelCodes, curGroup, hgroup, h0, h1, h2, h3, h4]⟩

end

/-! ## Elements go on where the grammar puts them -/

section
variable {s : State} {m : Img}

@[simp] theorem goesOn_next (t : State) : goesOn (.next t) = true := rfl

@[simp] theorem goesOn_abort (k : Failure) (s : State) : goesOn (abort k s) = true := rfl

@[simp] theorem goesOn_openNested (u : SubUse) (xs ys : Nat) (s : State) : goesOn (openNested u xs ys s) = true := by
  unfold openNested; split_ifs <;> rfl

@[simp] theorem goesOn_finishCode (L : Code) (m : Img) (s : State) : goesOn (finishCode L m s) = true := by
  unfold finishCode; split_ifs <;> rfl

@[simp] theorem goesOn_nextToken (cl : Code) (lens : List Nat) (left prev : Nat) (m : Img) (s : State) :
    goesOn (nextToken cl lens left prev m s) = true := by
  unfold nextToken; split_ifs <;> simp

@[simp] theorem goesOn_finishElement (m : Img) (s : State) : goesOn (finishElement m s) = true := by
  unfold finishElement; split_ifs <;> rfl

theorem goesOn_beginXform {k : XKind} {body : State → Out} (hst : s.stage = .xform)
    (hbody : ∀ u, goesOn (body u) = true) : goesOn (beginXform k body s) = true := by
  simp only [beginXform, whenStage, hst, decide_true, if_true]
  split_ifs
  · rfl
  · exact hbody _

theorem goesOn_atPixel {cs : Code × Code × Code × Code × Code} {k : Img → Code × Code × Code × Code × Code → Out}
    (hst : s.stage = .pixel) (hm : curImg s = some m) (hroom : m.pos < m.size) (hcodes : pixelCodes m = some cs)
    (hk : goesOn (k m cs) = true) : goesOn (atPixel s k) = true := by
  simpa [atPixel, whenStage, withImg, hst, hm, hroom, hcodes] using hk

end

section
variable {s : State} {m : Img} {i : Instr}

theorem exec_goesOn_header (hst : s.stage = .header) (ha : Ctx.header.admits i = true) : goesOn (exec i s) = true := by
  cases i with
  | hdr =>
    simp only [exec, execHdr, whenStage, hst, decide_true, if_true]
    split_ifs <;> rfl
  | _ => cases ha

theorem exec_goesOn_xform (hst : s.stage = .xform) (ha : Ctx.xform.admits i = true) : goesOn (exec i s) = true := by
  cases i with
  | xformEnd =>
    simp only [exec, execXformEnd, whenStage, hst, decide_true, if_true]
    split_ifs <;> rfl
  | xformPred | xformXcolor | xformCindex => exact goesOn_beginXform hst fun _ => goesOn_openNested _ _ _ _
  | xformSubgreen => rw [exec_xformSubgreen]; exact goesOn_beginXform hst fun _ => rfl
  | _ => cases ha

theorem exec_goesOn_ccache (hst : s.stage = .ccache) (hm : curImg s = some m) (ha : Ctx.ccache.admits i = true) :
    goesOn (exec i s) = true := by
  cases i with
  | ccacheOff => rw [exec_ccacheOff hst hm]; rfl
  | ccacheOn c =>
    by_cases hc : c.toNat < 1 ∨ 11 < c.toNat
    · rw [exec_ccacheOn_illegal hst hm hc]; rfl
    · rw [exec_ccacheOn_legal hst hm (by omega) (by omega)]; rfl
  | _ => cases ha

theorem exec_goesOn_metaBit (hst : s.stage = .metaBit) (h0 : s.img0 = some m) (ha : Ctx.metaBit.admits i = true) :
    goesOn (exec i s) = true := by
  cases i with
  | metaOff => rw [exec_metaOff hst h0]; rfl
  | metaOn b => rw [exec_metaOn b hst h0]; exact goesOn_openNested _ _ _ _
  | _ => cases ha

theorem SimpleForm.exec_goesOn {xs : List Nat} {n : Nat} (h : SimpleForm i xs n) (hst : s.stage = .hcode)
    (hm : curImg s = some m) : goesOn (exec i s) = true := by
  rw [exec_simpleForm h hst hm]
  exact goesOn_finishCode _ _ _

theorem exec_goesOn_hcode (hst : s.stage = .hcode) (hm : curImg s = some m) (ha : Ctx.hcode.admits i = true) :
    goesOn (exec i s) = true := by
  cases i with
  | hcodeS1b1 x => exact (SimpleForm.s1b1 x).exec_goesOn hst hm
  | hcodeS1b8 x => exact (SimpleForm.s1b8 x).exec_goesOn hst hm
  | hcodeS2b1 x y => exact (SimpleForm.s2b1 x y).exec_goesOn hst hm
  | hcodeS2b8 x y => exact (SimpleForm.s2b8 x y).exec_goesOn hst hm
  | hcodeNormal => rw [exec_hcodeNormal hst hm]; split_ifs <;> rfl
  | _ => cases ha

theorem exec_goesOn_maxsym {cl : Code} (hst : s.stage = .maxsym cl) (hm : curImg s = some m)
    (ha : Ctx.maxsym.admits i = true) : goesOn (exec i s) = true := by
  cases i with
  | maxsymOff => rw [exec_maxsymOff hst hm]; rfl
  | maxsymOn => rw [exec_maxsymOn hst hm]; split_ifs <;> rfl
  | _ => cases ha

theorem runToken_goesOn {cl : Code} {lens : List Nat} {left prev tok eb rep : Nat} {len : Nat → Nat}
    (hst : s.stage = .token cl lens left prev) (hm : curImg s = some m) :
    goesOn (runToken tok eb rep len s) = true := by
  rw [runToken_eq rep len hst hm]
  split_ifs
  · rfl
  · exact goesOn_nextToken _ _ _ _ _ _

theorem exec_goesOn_token {cl : Code} {lens : List Nat} {left prev : Nat} (hst : s.stage = .token cl lens left prev)
    (hm : curImg s = some m) (ha : (Ctx.token cl).admits i = true) : goesOn (exec i s) = true := by
  cases i with
  | clLit x => rw [exec_clLit x hst hm]; exact goesOn_nextToken _ _ _ _ _ _
  | clRep16 | clZero17 | clZero18 => exact runToken_goesOn hst hm
  | _ => cases ha

theorem exec_goesOn_pixel {green red blue alpha dist : Code} (hst : s.stage = .pixel) (hm : curImg s = some m)
    (hroom : m.pos < m.size) (hcodes : pixelCodes m = some (green, red, blue, alpha, dist))
    (ha : (Ctx.pixel green red blue alpha dist).admits i = true) : goesOn (exec i s) = true := by
  cases i with
  | pxLiteral | pxCache => exact goesOn_atPixel hst hm hroom hcodes (goesOn_finishElement _ _)
  | pxBackref => exact goesOn_atPixel hst hm hroom hcodes (by dsimp only; split_ifs <;> simp)
  | _ => cases ha

/-- Every operation the sequencer issues has a next state. -/
theorem exec_goesOn_of_isIssued (hi : isIssued i = true) (s : State) : goesOn (exec i s) = true := by
  cases i with
  | sinkAlloc | sinkSet | invPred | invXcolor | invSubgreen | invCindex | paletteExpand => rfl
  | _ => cases hi

end

/-! ## Every move goes on -/

section
variable {s : State} {m : Img}

/-- An element decodes at every position the grammar gives a context (R198), so its meaning decides. -/
theorem runElement_goesOn {c : Ctx} (hs : Inv s) (hc : fetchCtx s = some c)
    (hexec : ∀ i, c.admits i = true → goesOn (exec i s) = true) : goesOn (runElement s) = true := by
  have hfit := codesFit_of_fetchCtx hs hc
  obtain ⟨i, hdec⟩ := exists_decode hfit (window s)
  simp only [runElement, hc, hdec]
  exact hexec i (standsAt_of_decode hfit hdec).admitted

theorem runElement_goesOn_pixel (hs : Inv s) (hst : s.stage = .pixel) (hm : curImg s = some m)
    (hroom : m.pos < m.size) : goesOn (runElement s) = true := by
  have hinv := hs
  obtain ⟨-, -, -, hpos, -⟩ := hs
  obtain ⟨hok, hstage, -⟩ := positionOk_curImg hpos hm
  obtain ⟨green, red, blue, alpha, dist, hcodes⟩ :=
    exists_pixelCodes hok (by simpa [hst, stageOk] using hstage) hroom
  exact runElement_goesOn hinv (by simp [fetchCtx, hst, hm, hcodes])
    fun i ha => exec_goesOn_pixel hst hm hroom hcodes ha

theorem endSubImage_goesOn {n : Nested} (hpos : positionOk s = true) (hn : s.nested = some n) :
    goesOn (endSubImage n s) = true := by
  obtain ⟨u, mi⟩ := n
  cases u with
  | groupMap mb =>
    obtain ⟨m0, h0⟩ := exists_level0_of_groupMap hpos hn
    simp [endSubImage, h0]
  | _ => rfl

theorem endLevel0_goesOn (s : State) : goesOn (endLevel0 s) = true := by
  unfold endLevel0; split_ifs <;> rfl

theorem pixelMove_goesOn (hs : Inv s) (hst : s.stage = .pixel) : goesOn (pixelMove s) = true := by
  have hinv := hs
  obtain ⟨-, -, -, hpos, -⟩ := hs
  obtain ⟨m, hm⟩ := exists_curImg_of_stage hpos (by simp [hst])
  simp only [pixelMove, hm]
  split_ifs with hdue hroom
  · rfl
  · exact runElement_goesOn_pixel hinv hst hm hroom
  · cases hn : s.nested with
    | none => exact endLevel0_goesOn s
    | some n => exact endSubImage_goesOn hpos hn

theorem endPalette_goesOn (hpos : positionOk s = true) (hst : s.stage = .palette) : goesOn (endPalette s) = true := by
  obtain ⟨wb, m, hn⟩ := exists_palette_of_stage hpos hst
  simp [endPalette, hn]

theorem finishMove_goesOn (hpos : positionOk s = true) (hst : s.stage = .finish) : goesOn (finishMove s) = true := by
  obtain ⟨m, h0⟩ := exists_level0_of_stage hpos (.inr hst)
  simp only [finishMove, h0]
  split_ifs <;> rfl

/-- At every position but the four where the control flow turns, the next move is an element (R82). -/
theorem runElement_goesOn_of_stage (hs : Inv s) (hst : s.stage ≠ .idle ∧ s.stage ≠ .pixel ∧ s.stage ≠ .palette ∧
    s.stage ≠ .finish) : goesOn (runElement s) = true := by
  have hrun := fun c => runElement_goesOn (c := c) hs
  obtain ⟨-, -, -, hpos, -⟩ := hs
  have himg := exists_curImg_of_stage hpos
  cases hstage : s.stage with
  | header => exact hrun .header (by simp [fetchCtx, hstage]) fun i => exec_goesOn_header hstage
  | xform => exact hrun .xform (by simp [fetchCtx, hstage]) fun i => exec_goesOn_xform hstage
  | ccache =>
    obtain ⟨m, hm⟩ := himg (by simp [hstage])
    exact hrun .ccache (by simp [fetchCtx, hstage]) fun i => exec_goesOn_ccache hstage hm
  | metaBit =>
    obtain ⟨m, h0⟩ := exists_level0_of_stage hpos (.inl hstage)
    exact hrun .metaBit (by simp [fetchCtx, hstage]) fun i => exec_goesOn_metaBit hstage h0
  | hcode =>
    obtain ⟨m, hm⟩ := himg (by simp [hstage])
    exact hrun .hcode (by simp [fetchCtx, hstage]) fun i => exec_goesOn_hcode hstage hm
  | maxsym cl =>
    obtain ⟨m, hm⟩ := himg (by simp [hstage])
    exact hrun .maxsym (by simp [fetchCtx, hstage]) fun i => exec_goesOn_maxsym hstage hm
  | token cl lens left prev =>
    obtain ⟨m, hm⟩ := himg (by simp [hstage])
    exact hrun (.token cl) (by simp [fetchCtx, hstage]) fun i => exec_goesOn_token hstage hm
  | _ => simp [hstage] at hst

theorem sequence_goesOn (hs : Inv s) (hrun : s.phase.running = true) : goesOn (Machine.sequence s) = true := by
  have hinv := hs
  obtain ⟨-, -, -, hpos, -⟩ := hs
  unfold Machine.sequence
  cases s.emit with
  | inverting | sinking => rfl
  | off =>
    cases hst : s.stage with
    | idle => exact absurd hst (stage_ne_idle_of_running hpos hrun)
    | pixel => exact pixelMove_goesOn hinv hst
    | palette => exact endPalette_goesOn hpos hst
    | finish => exact finishMove_goesOn hpos hst
    | _ => exact runElement_goesOn_of_stage hinv (by simp [hst])

theorem coreMove_goesOn (hs : Inv s) : goesOn (coreMove s) = true := by
  have hinv := hs
  obtain ⟨-, -, -, -, -, hissued⟩ := hs
  unfold coreMove
  cases hops : s.ops with
  | nil =>
    dsimp only
    split_ifs with hrun
    · exact sequence_goesOn hinv hrun
    · rfl
  | cons i rest =>
    rw [hops, List.all_cons, Bool.and_eq_true] at hissued
    exact exec_goesOn_of_isIssued hissued.1 _

theorem execHostStart_goesOn (s : State) : goesOn (execHostStart s) = true := by
  unfold execHostStart; split_ifs <;> rfl

theorem hostMove_goesOn (a : HostAct) (hs : Inv s) : goesOn (hostMove a s) = true := by
  cases a with
  | pass => exact coreMove_goesOn hs
  | write r v =>
    cases r with
    | ctrl =>
      simp only [hostMove, decodeCtrl]
      cases v.getLsbD 0
      · rfl
      · exact execHostStart_goesOn s
    | _ => rfl
  | writeIn | reset => rfl

end

/-- Settles O51: the host's accesses and the core's moves all go on. -/
theorem invNeverStops : Obligations.InvNeverStops := by
  intro s hs
  cases hhost : s.host with
  | nil => exact step_core hhost ▸ coreMove_goesOn hs
  | cons a rest => exact step_host hhost ▸ hostMove_goesOn a (inv_keptByMoves.host rest hs)

end Machine

end Sys2Proof
end

section
/-! PROOFS, family 43_pixel_stream: the colour cache: its slots (O29), and that it holds its image's pixels inserted in
the order of their positions (O54) (spec/43_pixel_stream.md R222, R233 to R235). -/

namespace Sys2Proof.Machine

/-! ## The slots of a cache -/

/-- The hash is the wrapped 32-bit product's top bits (R233). -/
theorem hash_eq (v : Word) (bits : Nat) :
    hash v bits = (v.toNat * 0x1E35A7BD % 2 ^ 32) >>> (32 - bits) := by
  rw [hash, BitVec.toNat_ushiftRight, BitVec.toNat_mul, BitVec.toNat_ofNat]

/-- A hash lies in the table (R233). -/
theorem hash_lt {bits : Nat} (v : Word) (hbits : bits ≤ 32) : hash v bits < 2 ^ bits := by
  have hwrap : v.toNat * 0x1E35A7BD % 2 ^ 32 < 2 ^ (32 - bits) * 2 ^ bits := by
    rw [← Nat.pow_add, Nat.sub_add_cancel hbits]
    exact Nat.mod_lt _ (Nat.two_pow_pos 32)
  rw [hash_eq, Nat.shiftRight_eq_div_pow]
  exact Nat.div_lt_of_lt_mul hwrap

theorem pixAt_of_getElem? {l : List Word} {i : Nat} {v : Word} (h : l[i]? = some v) : pixAt l i = v := by
  simp [pixAt, List.getD, h]

theorem pixAt_of_lt {l : List Word} {i : Nat} (h : i < l.length) : pixAt l i = l.getD i 0 := by
  simp [pixAt, List.getD, h]

section
variable {s : State} {m : Img}

theorem exec_ccInsert (v : Word) (hm : curImg s = some m) :
    exec (.ccInsert v) s = .next (setCurImg { m with cc := m.cc.insert v } s) := by
  simp only [exec, execCcInsert, hm]

theorem exec_ccLookup {key : Nat} (hm : curImg s = some m) (hkey : key < m.cc.arr.length) :
    exec (.ccLookup key) s = .next { s with res := .pixel (m.cc.arr.getD key 0) } := by
  simp only [exec, execCcLookup, hm, CCache.lookup, pixAt_of_lt hkey, setRes]

end

/-- Settles O29: the two operations' equations, and a read of a slot after a write of one. -/
theorem colourCacheSlots : Obligations.ColourCacheSlots := by
  intro s m v key slot hm hlow hhigh hlen hkey hslot
  rw [← hash_eq] at hslot
  have hlt : slot < 2 ^ m.cc.bits := hslot ▸ hash_lt v (by omega)
  have hinsert : exec (.ccInsert v) s =
      .next (setCurImg { m with cc := { m.cc with arr := m.cc.arr.set slot v } } s) := by
    rw [hslot]; exact exec_ccInsert v hm
  refine ⟨hlt, hinsert, exec_ccLookup hm (by omega), fun t ht => ?_⟩
  obtain rfl := Host.Outcome.next.inj (hinsert.symm.trans ht)
  rw [exec_ccLookup (curImg_setCurImg _ _) (by simp; omega)]
  by_cases heq : key = slot
  · subst heq
    simp [List.getD, hlen, hkey]
  · simp [List.getD, List.getElem?_set_ne (Ne.symm heq), heq]

/-! ## The pixels of an image inserted in order -/

/-- Writing pixels inserts each, in order, into an enabled cache (R222). -/
theorem foldl_emit_cc (vs : List Word) (m : Img) :
    (vs.foldl Img.emit m).cc = if m.cc.bits = 0 then m.cc else
      { m.cc with arr := vs.foldl (fun arr v => arr.set (hash v m.cc.bits) v) m.cc.arr } := by
  induction vs generalizing m with
  | nil => simp
  | cons v vs ih =>
    rw [List.foldl_cons, ih, Img.emit_bits]
    by_cases hbits : m.cc.bits = 0
    · simp [Img.emit, hbits]
    · simp [Img.emit, hbits, Nat.pos_of_ne_zero hbits, CCache.insert]

theorem cacheInOrder_iff (m : Img) :
    cacheInOrder m = true ↔ (m.cc.bits ≠ 0 → m.cc.arr =
      m.pix.foldl (fun arr v => arr.set (hash v m.cc.bits) v) (List.replicate (2 ^ m.cc.bits) 0)) := by
  simp [cacheInOrder, or_iff_not_imp_left]

/-- A new context has no cache (R35). -/
theorem cacheInOrder_freshImg (xs ys : Nat) (l : Bool) : cacheInOrder (freshImg xs ys l) = true := rfl

/-- An image without pixels gets a cache of empty slots (R153). -/
theorem cacheInOrder_of_empty {m : Img} (hpix : m.pix = [])
    (harr : m.cc.arr = List.replicate (cacheSize m.cc.bits) 0) : cacheInOrder m = true := by
  rw [cacheInOrder_iff]
  intro hbits
  simp [hpix, harr, cacheSize, hbits]

/-- Every pixel written is inserted after those before it (R222, R234). -/
theorem cacheInOrder_emit {m : Img} (vs : List Word) (h : cacheInOrder m = true) :
    cacheInOrder (vs.foldl Img.emit m) = true := by
  rw [cacheInOrder_iff] at h ⊢
  intro hbits
  rw [foldl_emit_bits] at hbits ⊢
  rw [foldl_emit_eq, foldl_emit_cc, if_neg hbits, List.foldl_append, ← h hbits]

/-! ## Every step keeps the order -/

section
variable {i : Instr} {s t : State} {m : Img}

theorem cachesOk_iff (s : State) :
    cachesOk s = true ↔ (∀ m, s.img0 = some m → cacheInOrder m = true) ∧
      ∀ n, s.nested = some n → cacheInOrder n.img = true := by
  unfold cachesOk
  cases s.img0 <;> cases s.nested <;> simp

theorem cacheInOrder_of_curImg (h : cachesOk s = true) (hm : curImg s = some m) : cacheInOrder m = true := by
  obtain ⟨h0, hn⟩ := (cachesOk_iff s).1 h
  cases hs : s.nested with
  | none => exact h0 m (curImg_of_level0 hs ▸ hm)
  | some n =>
    obtain rfl : n.img = m := Option.some.inj ((curImg_of_nested hs).symm.trans hm)
    exact hn n hs

/-- The image being decoded changes. -/
theorem cachesOk_setCurImg (h : cachesOk s = true) (hm : cacheInOrder m = true) :
    cachesOk (setCurImg m s) = true := by
  obtain ⟨h0, hn⟩ := (cachesOk_iff s).1 h
  refine (cachesOk_iff _).2 ⟨?_, ?_⟩
  · cases hs : s.nested with
    | none => simp [hs, hm]
    | some n => simpa [hs] using h0
  · cases hs : s.nested <;> simp [hs, hm]

/-- Every stream element keeps the order: a cache begins empty, before its image's first pixel, and a pixel is inserted
when it is written. -/
theorem ElementDoes.keeps_caches (h : ElementDoes i s t) (hpos : positionOk s = true) (hc : cachesOk s = true) :
    cachesOk t = true := by
  obtain ⟨h0, hn⟩ := (cachesOk_iff s).1 hc
  cases h with
  | fails => rfl
  | header | subtractGreen | codeGoesOn => exact hc
  | xformEnd =>
    refine (cachesOk_iff _).2 ⟨fun m hm => ?_, hn⟩
    obtain rfl := Option.some.inj hm
    exact cacheInOrder_freshImg _ _ _
  | subImage | metaImage =>
    refine (cachesOk_iff _).2 ⟨h0, fun n hn => ?_⟩
    obtain rfl := Option.some.inj hn
    exact cacheInOrder_freshImg _ _ _
  | cache m cc n hst hm hbits harr =>
    obtain ⟨-, hstage, -⟩ := positionOk_curImg hpos hm
    have hpix : m.pix = [] := by simp_all [stageOk]
    have hempty : cacheInOrder { m with cc := cc } = true := cacheInOrder_of_empty hpix harr
    rw [afterCache_eq]
    exact cachesOk_setCurImg (s := advance n s) hc (by split_ifs <;> exact hempty)
  | noMeta m hi hst hm =>
    refine (cachesOk_iff _).2 ⟨fun m' hm' => ?_, nofun⟩
    obtain rfl := Option.some.inj hm'
    exact h0 m hm
  | codeEnds m L n hm =>
    have hsame : cacheInOrder { m with codes := m.codes ++ [L] } = cacheInOrder m := rfl
    rw [pushCode_eq]
    exact cachesOk_setCurImg (s := advance n s) hc (hsame.trans (cacheInOrder_of_curImg hc hm))
  | pixels m vs n hi hst hm =>
    exact cachesOk_setCurImg (s := advance n s) hc (cacheInOrder_emit vs (cacheInOrder_of_curImg hc hm))

/-- A turn drops an image, or keeps its pixels and its cache. -/
theorem TurnDoes.keeps_caches (h : TurnDoes s t) (hc : cachesOk s = true) : cachesOk t = true := by
  obtain ⟨h0, -⟩ := (cachesOk_iff s).1 hc
  cases h with
  | endCheckFails | jobEnds => rfl
  | tilesEnd | paletteEnds => exact (cachesOk_iff _).2 ⟨h0, nofun⟩
  | metaEnds mb mi m he hst hn hfull hm =>
    refine (cachesOk_iff _).2 ⟨fun m' hm' => ?_, nofun⟩
    obtain rfl := Option.some.inj hm'
    exact h0 m hm
  | _ => exact hc

/-- No operation the sequencer issues is a CC_INSERT. -/
theorem OperationDoes.keeps_caches (h : OperationDoes i s t) (hi : isIssued i = true) (hc : cachesOk s = true) :
    cachesOk t = true := by
  cases h with
  | inserts v m hins => subst hins; cases hi
  | _ => exact hc

theorem writeReg_keeps_caches (r : Reg) (v : Word) (hc : cachesOk s = true) : cachesOk (writeReg r v s) = true := by
  cases r with
  | inLen | expect => unfold writeReg; dsimp only; split_ifs <;> exact hc
  | _ => exact hc

theorem writeIn_keeps_caches (a : BitVec 32) (b : Byte) (hc : cachesOk s = true) :
    cachesOk (writeIn a b s) = true := by
  unfold writeIn; dsimp only; split_ifs <;> exact hc

end

/-- Each kind of move keeps the caches in order, beside the invariant the position is read from. -/
theorem cachesOk_keptByMoves : KeptByMoves fun s => Inv s ∧ cachesOk s = true where
  host _ hs := hs
  start hs hidle := ⟨inv_keptByMoves.start hs.1 hidle, rfl⟩
  reset hs := ⟨inv_keptByMoves.reset hs.1, rfl⟩
  writeReg r v hs := ⟨inv_keptByMoves.writeReg r v hs.1, writeReg_keeps_caches r v hs.2⟩
  writeIn a b hs := ⟨inv_keptByMoves.writeIn a b hs.1, writeIn_keeps_caches a b hs.2⟩
  operation := by
    rintro s t i rest ⟨hs, hc⟩ hops hx
    refine ⟨inv_keptByMoves.operation hs hops hx, ?_⟩
    obtain ⟨-, -, -, -, -, hissued⟩ := hs
    rw [hops, List.all_cons, Bool.and_eq_true] at hissued
    exact (exec_operation (isOperation_of_isIssued hissued.1) hx).keeps_caches hissued.1 hc
  element := by
    rintro s t i ⟨hs, hc⟩ hops he h
    refine ⟨inv_keptByMoves.element hs hops he h, ?_⟩
    obtain ⟨-, -, -, hpos, -⟩ := hs
    exact h.keeps_caches hpos hc
  turn hs hops h := ⟨inv_keptByMoves.turn hs.1 hops h, h.keeps_caches hs.2⟩

/-- Settles O54: each kind of move keeps the caches in order, so every step does. -/
theorem cacheInPixelOrder : Obligations.CacheInPixelOrder :=
  fun _ _ hs hc h => (cachesOk_keptByMoves.step ⟨hs, hc⟩ h).2

end Sys2Proof.Machine
end

section
/-! PROOFS, family 43_pixel_stream: the elements that write one pixel (O27) and the backward reference (O28)
(spec/43_pixel_stream.md R222 to R225, R230 to R232, R236). -/

namespace Sys2Proof.Machine

/-! ## Pixels written -/

/-- The image after the pixels `vs` are written and inserted, with the hash written out (R222, R233). -/
theorem foldl_emit_eq_of_hash (vs : List Word) (m : Img) :
    vs.foldl Img.emit m = { m with
      pix := m.pix ++ vs
      cc := if m.cc.bits = 0 then m.cc else { m.cc with
        arr := vs.foldl
          (fun arr v => arr.set ((v.toNat * 0x1E35A7BD % 2 ^ 32) >>> (32 - m.cc.bits)) v) m.cc.arr } } := by
  rw [foldl_emit_eq, foldl_emit_cc]
  simp only [hash_eq]

/-- The pixels a copy of `len` pixels from `dist` back appends: the last `dist` ones, periodically (R231). -/
def copiedPixels (pix : List Word) (dist len : Nat) : List Word :=
  (List.range len).map fun k => pix.getD (pix.length - dist + k % dist) 0

theorem copiedPixels_length (pix : List Word) (dist len : Nat) : (copiedPixels pix dist len).length = len := by
  simp [copiedPixels]

/-- One pixel on, the period of the last `dist` pixels has moved on by one: past its end stands the pixel just
written, its first. -/
theorem getD_period_succ {pix : List Word} {dist : Nat} (k : Nat) (hpos : 1 ≤ dist) (hle : dist ≤ pix.length) :
    pix.getD (pix.length - dist + (k + 1) % dist) 0 =
      (pix ++ [pix.getD (pix.length - dist) 0]).getD (pix.length + 1 - dist + k % dist) 0 := by
  have hk : k % dist < dist := Nat.mod_lt k hpos
  rw [← Nat.mod_add_mod k dist 1]
  by_cases hwrap : k % dist + 1 = dist
  · have hend : pix.length + 1 - dist + k % dist = pix.length := by omega
    rw [hend, hwrap, Nat.mod_self]
    simp
  · rw [Nat.mod_eq_of_lt (by omega), List.getD_append _ _ _ _ (by omega)]
    congr 1
    omega

/-- A copy's first pixel is the one `dist` back; the others are a copy after it is written. -/
theorem copiedPixels_succ {pix : List Word} {dist : Nat} (len : Nat) (hpos : 1 ≤ dist) (hle : dist ≤ pix.length) :
    copiedPixels pix dist (len + 1) = pixAt pix (pix.length - dist) ::
      copiedPixels (pix ++ [pixAt pix (pix.length - dist)]) dist len := by
  rw [pixAt_of_lt (by omega), copiedPixels, List.range_succ_eq_map, List.map_cons, List.map_map, Nat.zero_mod,
    Nat.add_zero, copiedPixels, List.length_append]
  exact congrArg _ (List.map_congr_left fun k _ => getD_period_succ k hpos hle)

/-- A copy writes the periodic pixels, one after another (R224, R231). -/
theorem copy_eq_foldl_copiedPixels {dist : Nat} (len : Nat) {m : Img} (hpos : 1 ≤ dist) (hle : dist ≤ m.pix.length) :
    m.copy dist len = (copiedPixels m.pix dist len).foldl Img.emit m := by
  induction len generalizing m with
  | zero => rfl
  | succ len ih =>
    rw [copiedPixels_succ len hpos hle, List.foldl_cons, Img.copy, ih (by simp; omega)]
    rfl

/-! ## The elements at their position -/

section
variable {s : State} {m : Img} {green red blue alpha dist : Code}

/-- Where the image has pixels left a pixel element runs with the codes in force (R220, R221). -/
theorem atPixel_eq {cs : Code × Code × Code × Code × Code} (k : Img → Code × Code × Code × Code × Code → Out)
    (hst : s.stage = .pixel) (hm : curImg s = some m) (hroom : m.pix.length < m.xs * m.ys)
    (hcodes : pixelCodes m = some cs) : atPixel s k = k m cs := by
  have hleft : m.pos < m.size := hroom
  simp [atPixel, whenStage, withImg, hst, hm, hleft, hcodes]

theorem finishElement_of_eos (heos : 8 * s.inLen.toNat < s.pos) :
    finishElement m s = abort .unexpectedEndOfStream s :=
  finishElement_next.2 (.inl ⟨(isEos_iff s).2 heos, rfl⟩)

/-- Inside the input an element's image stays, and at level 0 the complete rows are counted (R220, R312). -/
theorem finishElement_of_fits (hin : s.pos ≤ 8 * s.inLen.toNat) :
    finishElement m s =
      .next (setCurImg m { s with rowsDone := if m.level0 then m.pix.length / m.xs else s.rowsDone }) := by
  have hnot := (isEos_eq_false_iff s).2 hin
  have hset (r : Nat) : { setCurImg m s with rowsDone := r } = setCurImg m { s with rowsDone := r } := by
    obtain ⟨⟩ := s
    unfold setCurImg; dsimp only; split <;> rfl
  cases hl : m.level0 with
  | true => exact finishElement_next.2 (.inr (.inl ⟨hnot, hl, (hset _).symm⟩))
  | false => exact finishElement_next.2 (.inr (.inr ⟨hnot, hl, rfl⟩))

/-- The end of an element that has written the pixels `vs` (R222, R312). -/
theorem finishElement_emit (vs : List Word) (hin : s.pos ≤ 8 * s.inLen.toNat) :
    finishElement (vs.foldl Img.emit m) s = .next (setCurImg
      { m with
        pix := m.pix ++ vs
        cc := if m.cc.bits = 0 then m.cc else { m.cc with
          arr := vs.foldl
            (fun arr v => arr.set ((v.toNat * 0x1E35A7BD % 2 ^ 32) >>> (32 - m.cc.bits)) v) m.cc.arr } }
      { s with rowsDone := if m.level0 then (m.pix.length + vs.length) / m.xs else s.rowsDone }) := by
  rw [finishElement_of_fits hin, foldl_emit_eq_of_hash, List.length_append]

/-- BoundsCheck in the terms of R230. -/
theorem outOfBounds_iff (m : Img) (d len : Nat) :
    outOfBounds m d len = true ↔ m.pix.length < d ∨ m.xs * m.ys - m.pix.length < len := by
  rw [outOfBounds, Bool.or_eq_true, decide_eq_true_iff, decide_eq_true_iff]
  rfl

end

/-- An element of `n` bits that writes the one pixel `v` (R223, R232). -/
inductive WritesOne (m : Img) (green red blue alpha : Code) : Instr → Word → Nat → Prop
  | literal (g r b a : BitVec 8) : WritesOne m green red blue alpha (.pxLiteral g r b a) (a ++ r ++ g ++ b)
      (symbolBits green g.toNat + symbolBits red r.toNat + symbolBits blue b.toNat + symbolBits alpha a.toNat)
  | cache {g : Nat} {v : Word} (hslot : m.cc.arr[g - 280]? = some v) :
      WritesOne m green red blue alpha (.pxCache g) v (symbolBits green g)

theorem WritesOne.exec_eq {s : State} {m : Img} {green red blue alpha dist : Code} {i : Instr} {v : Word} {n : Nat}
    (h : WritesOne m green red blue alpha i v n) (hst : s.stage = .pixel) (hm : curImg s = some m)
    (hroom : m.pix.length < m.xs * m.ys) (hcodes : pixelCodes m = some (green, red, blue, alpha, dist)) :
    exec i s = finishElement (m.emit v) (advance n s) := by
  cases h with
  | literal => simp only [exec, execPxLiteral, atPixel_eq _ hst hm hroom hcodes, argb]
  | cache hslot =>
    simp only [exec, execPxCache, atPixel_eq _ hst hm hroom hcodes, CCache.lookup, pixAt_of_getElem? hslot]

/-- Settles O27: both elements emit one pixel, then the end of the stream is checked. -/
theorem singlePixelElements : Obligations.SinglePixelElements := by
  intro s m green red blue alpha dist n i v hst hm hroom hcodes hi
  have hwrites : WritesOne m green red blue alpha i v n := by
    obtain ⟨g, r, b, a, rfl, rfl, rfl⟩ | ⟨g, rfl, -, hslot, rfl⟩ := hi
    · exact .literal g r b a
    · exact .cache hslot
  rw [hwrites.exec_eq hst hm hroom hcodes]
  refine ⟨fun heos => ?_, fun hin => ?_⟩
  · rw [finishElement_of_eos (s := advance n s) heos]
    exact endsJob_abort_advance _ n s
  · exact finishElement_emit (s := advance n s) [v] hin

/-- Settles O28: the end-of-stream check, the bounds check, and the copy as the periodic pixels written in order. -/
theorem backwardCopy : Obligations.BackwardCopy := by
  intro s m green red blue alpha dcode g le d de n dist len new hst hm hroom hcodes hdist hlen hn hnew
  have hexec : exec (.pxBackref g le d de) s =
      if isEos (advance n s) then abort .unexpectedEndOfStream (advance n s)
      else if outOfBounds m dist len then abort .corruptBackreference (advance n s)
      else finishElement (m.copy dist len) (advance n s) := by
    rw [hdist, hlen, hn]
    rw [exec, execPxBackref, atPixel_eq _ hst hm hroom hcodes]
    rfl
  rw [hexec]
  refine ⟨fun heos => ?_, fun hin hout => ?_, fun hin hback hfits => ?_⟩
  · rw [if_pos ((isEos_iff (advance n s)).2 heos)]
    exact endsJob_abort_advance _ n s
  · rw [if_neg (by simpa [isEos_iff] using hin), if_pos ((outOfBounds_iff m dist len).2 hout)]
    exact endsJob_abort_advance _ n s
  · have hpos : 1 ≤ dist := hdist ▸ one_le_planeToDist m.xs _
    have hbounds : ¬ outOfBounds m dist len = true := by rw [outOfBounds_iff]; omega
    have hcopy : m.copy dist len = new.foldl Img.emit m := hnew ▸ copy_eq_foldl_copiedPixels len hpos hback
    have hcount : new.length = len := hnew ▸ copiedPixels_length m.pix dist len
    have hemit := finishElement_emit (s := advance n s) (m := m) new hin
    rw [if_neg (by simpa [isEos_iff] using hin), if_neg hbounds, hcopy, hemit, hcount]
    rfl

end Sys2Proof.Machine
end

section
/-! PROOFS, family 43_pixel_stream: the group of an element (O30), symbol values (O31) and distances (O32)
(spec/43_pixel_stream.md R221, R226 to R229). -/

namespace Sys2Proof.Machine

/-! ## Groups -/

section
variable {s : State} {m : Img} {x y gi : Nat}

theorem exec_groupSelect (hm : curImg s = some m) (hgi : groupAt m x y = some gi) :
    exec (.groupSelect x y) s = .next { s with res := .value gi } := by
  simp only [exec, execGroupSelect, hm, hgi, setRes]

/-- Without a meta image there is one group, with one the tile's index picks it (R221). -/
theorem groupAt_eq_some_iff :
    groupAt m x y = some gi ↔ (m.mt.bits = 0 → gi = 0) ∧
      (m.mt.bits ≠ 0 → m.mt.idx[(y / 2 ^ m.mt.bits) * m.mt.xs + x / 2 ^ m.mt.bits]? = some gi) := by
  unfold groupAt
  by_cases hbits : m.mt.bits = 0 <;> simp [hbits, Nat.shiftRight_eq_div_pow, eq_comm]

/-- The five codes in force at the next pixel are those of its group (R221). -/
theorem exists_pixelCodes_of_group (hgroup : curGroup m = some gi) (hgi : gi < m.ngroups)
    (hcodes : m.codes.length = 5 * m.ngroups) :
    ∃ green red blue alpha dist, pixelCodes m = some (green, red, blue, alpha, dist) ∧ m.code gi 0 = some green ∧
      m.code gi 1 = some red ∧ m.code gi 2 = some blue ∧ m.code gi 3 = some alpha ∧ m.code gi 4 = some dist := by
  obtain ⟨green, h0⟩ := exists_code hcodes hgi (j := 0) (by decide)
  obtain ⟨red, h1⟩ := exists_code hcodes hgi (j := 1) (by decide)
  obtain ⟨blue, h2⟩ := exists_code hcodes hgi (j := 2) (by decide)
  obtain ⟨alpha, h3⟩ := exists_code hcodes hgi (j := 3) (by decide)
  obtain ⟨dist, h4⟩ := exists_code hcodes hgi (j := 4) (by decide)
  exact ⟨green, red, blue, alpha, dist, by simp only [pixelCodes, hgroup, h0, h1, h2, h3, h4], h0, h1, h2, h3, h4⟩

end

/-- Settles O30: the tile's index is that of a group, and the codes in force are the group's. -/
theorem groupSelection : Obligations.GroupSelection := by
  intro s m x y hm hgroups hmap hx hy
  obtain ⟨gi, hgi, hgroup⟩ := exists_groupAt hgroups hmap hx hy
  obtain ⟨hnone, hmeta⟩ := groupAt_eq_some_iff.1 hgroup
  refine ⟨gi, hgi, exec_groupSelect hm hgroup, hnone, hmeta, ?_⟩
  rintro rfl rfl hcodes
  exact exists_pixelCodes_of_group hgroup hgi hcodes

/-! ## Symbol values -/

/-- One less than the least value of symbol `s`: that value without the extra bits (R226). -/
def prefixBase (s : Nat) : Nat := if s < 4 then s else (2 + s % 2) * 2 ^ extraBits s

theorem prefixValue_eq_base_add {s e : Nat} (he : e < 2 ^ extraBits s) : prefixValue s e = prefixBase s + e + 1 := by
  unfold prefixValue prefixBase extraBits at *
  split_ifs at * with hs
  · omega
  · rw [Nat.shiftLeft_eq]

theorem extraBits_pair (k : Nat) {b : Nat} (hb : b < 2) : extraBits (2 * k + 2 + b) = k := by
  unfold extraBits; split_ifs <;> omega

/-- From symbol 2 on there are two symbols for each number of extra bits (R226). -/
theorem prefixBase_pair (k : Nat) {b : Nat} (hb : b < 2) : prefixBase (2 * k + 2 + b) = (2 + b) * 2 ^ k := by
  rw [prefixBase, extraBits_pair k hb]
  split_ifs with hsmall
  · obtain rfl : k = 0 := by omega
    simp
  · have hparity : (2 * k + 2 + b) % 2 = b := by omega
    rw [hparity]

/-- A symbol's values begin where those of the symbol before it end (R226). -/
theorem prefixBase_succ (s : Nat) : prefixBase (s + 1) = prefixBase s + 2 ^ extraBits s := by
  by_cases hs : s < 2
  · interval_cases s <;> rfl
  · obtain ⟨k, rfl | rfl⟩ : ∃ k, s = 2 * k + 2 ∨ s = 2 * k + 3 := ⟨s / 2 - 1, by omega⟩
    · have hodd : prefixBase (2 * k + 3) = 3 * 2 ^ k := prefixBase_pair k (b := 1) (by decide)
      have heven : prefixBase (2 * k + 2) = 2 * 2 ^ k := prefixBase_pair k (b := 0) (by decide)
      have hbits : extraBits (2 * k + 2) = k := extraBits_pair k (b := 0) (by decide)
      rw [hodd, heven, hbits]
      ring
    · have hnext : prefixBase (2 * k + 4) = 2 * 2 ^ (k + 1) := prefixBase_pair (k + 1) (b := 0) (by decide)
      have hodd : prefixBase (2 * k + 3) = 3 * 2 ^ k := prefixBase_pair k (b := 1) (by decide)
      have hbits : extraBits (2 * k + 3) = k := extraBits_pair k (b := 1) (by decide)
      rw [hnext, hodd, hbits]
      ring

theorem prefixBase_strictMono : StrictMono prefixBase :=
  strictMono_nat_of_lt_succ fun s => by
    rw [prefixBase_succ]
    exact Nat.lt_add_of_pos_right (Nat.two_pow_pos _)

/-- Every number lies between the bases of one symbol and the next. -/
theorem exists_prefixBase (n : Nat) : ∃ s e, e < 2 ^ extraBits s ∧ prefixBase s + e = n := by
  induction n with
  | zero => exact ⟨0, 0, by decide, rfl⟩
  | succ n ih =>
    obtain ⟨s, e, he, rfl⟩ := ih
    by_cases hnext : e + 1 < 2 ^ extraBits s
    · exact ⟨s, e + 1, hnext, rfl⟩
    · refine ⟨s + 1, 0, Nat.two_pow_pos _, ?_⟩
      rw [prefixBase_succ]
      omega

/-- A symbol's extra bits stay below the next symbol's base. -/
theorem prefixBase_add_lt_iff {s e : Nat} (he : e < 2 ^ extraBits s) (j : Nat) :
    prefixBase s + e < prefixBase j ↔ s < j := by
  constructor
  · intro hlt
    exact prefixBase_strictMono.lt_iff_lt.1 (by omega)
  · intro hlt
    have hle : prefixBase (s + 1) ≤ prefixBase j := prefixBase_strictMono.monotone hlt
    rw [prefixBase_succ] at hle
    omega

/-- A number's symbol and extra bits are the only ones that give it. -/
theorem prefixBase_add_inj {s s' e e' : Nat} (he : e < 2 ^ extraBits s) (he' : e' < 2 ^ extraBits s')
    (h : prefixBase s + e = prefixBase s' + e') : s = s' ∧ e = e' := by
  have hsame : ∀ j, s < j ↔ s' < j := fun j => by rw [← prefixBase_add_lt_iff he, h, prefixBase_add_lt_iff he']
  have h1 := hsame s
  have h2 := hsame s'
  obtain rfl : s = s' := by omega
  exact ⟨rfl, Nat.add_left_cancel h⟩

/-- Settles O31: the values of the symbols are consecutive intervals, those below symbol 24 the values to 4096, those
below symbol 40 the values to 1048576. -/
theorem prefixValuesCover : Obligations.PrefixValuesCover := by
  have hb24 : prefixBase 24 = 4096 := rfl
  have hb40 : prefixBase 40 = 1048576 := rfl
  refine ⟨fun s e => ?_, fun v hlow hhigh => ?_, fun s e hs he => ?_⟩
  · unfold prefixValue extraBits
    split_ifs
    · rfl
    · rw [Nat.shiftLeft_eq, Nat.and_one_is_mod]
  · obtain ⟨s, e, he, hse⟩ := exists_prefixBase (v - 1)
    have h24 := prefixBase_add_lt_iff he 24
    have h40 := prefixBase_add_lt_iff he 40
    have hval := prefixValue_eq_base_add he
    refine ⟨s, e, by omega, he, by omega, by omega, fun s' e' hs' he' hv => ?_⟩
    rw [prefixValue_eq_base_add he'] at hv
    exact prefixBase_add_inj he' he (by omega)
  · have h40 := (prefixBase_add_lt_iff he 40).2 hs
    rw [prefixValue_eq_base_add he]
    omega

/-! ## Distances -/

theorem planeToDist_of_gt {xs plane : Nat} (h : 120 < plane) : planeToDist xs plane = plane - 120 := if_pos h

/-- A plane code of the map is its entry's columns plus rows times the width, at least 1 (R228). -/
theorem planeToDist_of_entry {xs plane : Nat} {xi yi : Int} (hle : plane ≤ 120)
    (hentry : distMap[plane - 1]? = some (xi, yi)) : (planeToDist xs plane : Int) = max 1 (xi + yi * xs) := by
  simp only [planeToDist, if_neg (Nat.not_lt.2 hle), List.getD, hentry, Option.getD_some]
  split_ifs <;> omega

theorem exists_distMap_entry {plane : Nat} (hlow : 1 ≤ plane) (hhigh : plane ≤ 120) :
    ∃ xi yi : Int, distMap[plane - 1]? = some (xi, yi) :=
  ⟨_, _, List.getElem?_eq_getElem (by rw [distMap_length]; omega)⟩

theorem distMap_bounds : ∀ p ∈ distMap, 0 ≤ p.2 ∧ p.2 ≤ 7 ∧ -7 ≤ p.1 ∧ p.1 ≤ 8 ∧ (p.2 = 0 → 1 ≤ p.1) := by
  decide +kernel

/-- Every offset of seven rows up and the row itself is in the map, but those from the pixel being written on (R229). -/
theorem mem_distMap_of_offset (y : Fin 8) (k : Fin 16) (hrow : y.val = 0 → 8 ≤ k.val) :
    ((k.val : Int) - 7, (y.val : Int)) ∈ distMap := by
  revert y k
  decide +kernel

theorem mem_distMap_iff (xi yi : Int) :
    (xi, yi) ∈ distMap ↔ 0 ≤ yi ∧ yi ≤ 7 ∧ -7 ≤ xi ∧ xi ≤ 8 ∧ (yi = 0 → 1 ≤ xi) := by
  refine ⟨distMap_bounds _, fun ⟨hy, hy7, hx, hx8, hrow⟩ => ?_⟩
  have hmem := mem_distMap_of_offset ⟨yi.toNat, by omega⟩ ⟨(xi + 7).toNat, by omega⟩ (by dsimp only; omega)
  rwa [Int.toNat_of_nonneg hy, Int.toNat_of_nonneg (by omega), Int.add_sub_cancel] at hmem

theorem distMap_nodup : distMap.Nodup := by decide

theorem distMap_sorted : distMap.Pairwise fun p q => p.1 * p.1 + p.2 * p.2 ≤ q.1 * q.1 + q.2 * q.2 := by
  decide +kernel

/-- A distance of the map is at most seven rows and eight pixels (R238). -/
theorem planeToDist_le_of_map {xs plane : Nat} (hlow : 1 ≤ plane) (hhigh : plane ≤ 120) :
    planeToDist xs plane ≤ xs * 7 + 8 := by
  obtain ⟨xi, yi, hentry⟩ := exists_distMap_entry hlow hhigh
  obtain ⟨-, hy, -, hx, -⟩ := distMap_bounds _ (List.mem_of_getElem? hentry)
  have hrows : yi * xs ≤ 7 * xs := Int.mul_le_mul_of_nonneg_right hy (Int.natCast_nonneg xs)
  have hdist := planeToDist_of_entry (xs := xs) hhigh hentry
  dsimp only at hx
  omega

/-- Settles O32, entry by entry for the map and from an entry's bounds for the distance. -/
theorem distanceMapping : Obligations.DistanceMapping := by
  refine ⟨rfl, fun _ _ => planeToDist_of_gt, fun xs plane hlow hhigh => ?_, fun xs plane hlow hhigh => ?_,
    mem_distMap_iff, distMap_nodup, distMap_sorted⟩
  · obtain ⟨xi, yi, hentry⟩ := exists_distMap_entry hlow hhigh
    exact ⟨xi, yi, hentry, planeToDist_of_entry hhigh hentry⟩
  · refine ⟨one_le_planeToDist xs plane, ?_⟩
    by_cases hmap : plane ≤ 120
    · exact (planeToDist_le_of_map hlow hmap).trans (Nat.le_max_right _ _)
    · rw [planeToDist_of_gt (Nat.not_le.1 hmap)]
      exact (Nat.sub_le_sub_right hhigh 120).trans (Nat.le_max_left _ _)

end Sys2Proof.Machine
end

section
/-! PROOFS, family 44_transforms: the channels of a pixel word and the lane arithmetic (O34), and the predictor modes
(O35) (spec/44_transforms.md R262 to R283). -/

namespace Sys2Proof.Machine

/-! ## The channels of a word (R7) -/

theorem chA_toNat (p : Word) : (chA p).toNat = p.toNat / 2 ^ 24 % 2 ^ 8 := by
  rw [chA, BitVec.extractLsb'_toNat, Nat.shiftRight_eq_div_pow]

theorem chR_toNat (p : Word) : (chR p).toNat = p.toNat / 2 ^ 16 % 2 ^ 8 := by
  rw [chR, BitVec.extractLsb'_toNat, Nat.shiftRight_eq_div_pow]

theorem chG_toNat (p : Word) : (chG p).toNat = p.toNat / 2 ^ 8 % 2 ^ 8 := by
  rw [chG, BitVec.extractLsb'_toNat, Nat.shiftRight_eq_div_pow]

theorem chB_toNat (p : Word) : (chB p).toNat = p.toNat % 2 ^ 8 := by
  rw [chB, BitVec.extractLsb'_toNat, Nat.shiftRight_zero]

/-- A byte appended is the last digit in base 256. -/
theorem toNat_append_byte {n : Nat} (x : BitVec n) (y : Byte) : (x ++ y).toNat = x.toNat * 2 ^ 8 + y.toNat := by
  rw [BitVec.toNat_append, Nat.shiftLeft_eq, Nat.mul_comm, Nat.two_pow_add_eq_or_of_lt y.isLt]

theorem argb_toNat (a r g b : Byte) :
    (argb a r g b).toNat = ((a.toNat * 2 ^ 8 + r.toNat) * 2 ^ 8 + g.toNat) * 2 ^ 8 + b.toNat := by
  rw [argb, toNat_append_byte, toNat_append_byte, toNat_append_byte]

/-- The channels of a word are its digits in base 256. -/
theorem toNat_eq_channels (p : Word) :
    p.toNat = (chA p).toNat * 2 ^ 24 + (chR p).toNat * 2 ^ 16 + (chG p).toNat * 2 ^ 8 + (chB p).toNat := by
  rw [chA_toNat, chR_toNat, chG_toNat, chB_toNat]
  omega

theorem argb_channels (p : Word) : argb (chA p) (chR p) (chG p) (chB p) = p :=
  BitVec.eq_of_toNat_eq (by rw [argb_toNat, toNat_eq_channels p]; omega)

section
variable (a r g b : Byte)

@[simp] theorem chA_argb : chA (argb a r g b) = a :=
  BitVec.eq_of_toNat_eq (by rw [chA_toNat, argb_toNat]; omega)

@[simp] theorem chR_argb : chR (argb a r g b) = r :=
  BitVec.eq_of_toNat_eq (by rw [chR_toNat, argb_toNat]; omega)

@[simp] theorem chG_argb : chG (argb a r g b) = g :=
  BitVec.eq_of_toNat_eq (by rw [chG_toNat, argb_toNat]; omega)

@[simp] theorem chB_argb : chB (argb a r g b) = b :=
  BitVec.eq_of_toNat_eq (by rw [chB_toNat, argb_toNat]; omega)

end

/-! ## Lane-wise operations (R262 to R266) -/

section
variable {c : Word → Byte} (hc : c = chA ∨ c = chR ∨ c = chG ∨ c = chB)
include hc

/-- No carry passes between lanes (R262). -/
theorem channel_lanes2 (f : Byte → Byte → Byte) (p q : Word) : c (lanes2 f p q) = f (c p) (c q) := by
  obtain rfl | rfl | rfl | rfl := hc <;> simp [lanes2]

theorem channel_lanes3 (f : Byte → Byte → Byte → Byte) (p q r : Word) :
    c (lanes3 f p q r) = f (c p) (c q) (c r) := by
  obtain rfl | rfl | rfl | rfl := hc <;> simp [lanes3]

theorem channel_addPixels (p q : Word) : (c (addPixels p q)).toNat = ((c p).toNat + (c q).toNat) % 256 := by
  rw [addPixels, channel_lanes2 hc, BitVec.toNat_add]

/-- The average of two bytes is a byte, so nothing is cut off (R263). -/
theorem channel_average2 (p q : Word) : (c (average2 p q)).toNat = ((c p).toNat + (c q).toNat) / 2 := by
  rw [average2, channel_lanes2 hc, BitVec.toNat_ofNat, Nat.mod_eq_of_lt]
  omega

end

/-- Clamp255 leaves 0 to 255 and cuts the rest off (R265). -/
theorem clamp255_toNat (v : Int) : ((clamp255 v).toNat : Int) = max 0 (min 255 v) := by
  unfold clamp255
  split_ifs with hneg hbig
  · simp; omega
  · simp; omega
  · rw [BitVec.toNat_ofInt]; omega

theorem laneDiff_eq_natAbs (x y : Byte) : laneDiff x y = ((x.toNat : Int) - y.toNat).natAbs := by
  unfold laneDiff
  omega

/-- The distance of Select is the sum over the four channels (R264). -/
theorem pixelDiff_eq_sum (p q : Word) :
    pixelDiff p q = ([chA, chR, chG, chB].map fun k => (((k p).toNat : Int) - (k q).toNat).natAbs).sum := by
  simp [pixelDiff, laneDiff_eq_natAbs, Nat.add_assoc]

/-- Settles O34, channel by channel. -/
theorem laneArithmetic : Obligations.LaneArithmetic := by
  intro p q r c hc
  refine ⟨toNat_eq_channels p, argb_channels p, channel_addPixels hc p q, channel_average2 hc p q, ?_, ?_, ?_⟩
  · rw [clampAddSubtractFull, channel_lanes3 hc, clamp255_toNat]
  · rw [clampAddSubtractHalf, channel_lanes2 hc, clamp255_toNat]
  · rw [select, pixelDiff_eq_sum, pixelDiff_eq_sum]

/-! ## The predictor modes (R268 to R283) -/

/-- The mode is bits 11:8 of the sub-image's pixel (R268). -/
theorem modeBits_toNat (e : Word) : (e.extractLsb' 8 4).toNat = e.toNat / 256 % 16 := by
  rw [BitVec.extractLsb'_toNat, Nat.shiftRight_eq_div_pow]

/-- Each mode's instruction returns that mode's prediction (R269 to R283). -/
theorem exec_decodePred (e l t tr tl : Word) (s : State) :
    exec (decodePred e l t tr tl) s = runPredict (e.extractLsb' 8 4).toNat l t tr tl s := by
  have hm : (e.extractLsb' 8 4).toNat < 16 := (e.extractLsb' 8 4).isLt
  unfold decodePred
  generalize (e.extractLsb' 8 4).toNat = m at hm ⊢
  interval_cases m <;> rfl

/-- Settles O35: every mode is `runPredict`, for the mode its instruction names. -/
theorem predictorModes : Obligations.PredictorModes := by
  intro s l t tr tl e
  refine ⟨rfl, rfl, rfl, rfl, rfl, rfl, rfl, rfl, rfl, rfl, rfl, rfl, rfl, rfl, rfl, rfl, ?_⟩
  rw [exec_decodePred, modeBits_toNat, runPredict, setRes]

end Sys2Proof.Machine
end

section
/-! PROOFS, family 44_transforms: the inverse predictor (O36) (spec/44_transforms.md R267, R268). -/

namespace Sys2Proof.Machine

/-! ## Residuals in raster order -/

section
variable (w bits : Nat) (data : List Word)

theorem invPredFrom_append (res res' out : List Word) :
    invPredFrom w bits data (res ++ res') out = invPredFrom w bits data res' (invPredFrom w bits data res out) := by
  induction res generalizing out with
  | nil => rfl
  | cons r rs ih => exact ih _

/-- A pixel once reconstructed stays (R267). -/
theorem prefix_invPredFrom (res out : List Word) : out <+: invPredFrom w bits data res out := by
  induction res generalizing out with
  | nil => exact List.prefix_refl out
  | cons r rs ih => exact (List.prefix_append out _).trans (ih _)

/-- The first pixels are made from the first residuals alone (R267, R290). -/
theorem invPred_take (res : List Word) (n : Nat) :
    invPred w bits data (res.take n) = (invPred w bits data res).take n := by
  have hpre : invPred w bits data (res.take n) <+: invPred w bits data res := by
    conv_rhs => rw [invPred, ← List.take_append_drop n res, invPredFrom_append]
    exact prefix_invPredFrom ..
  rw [List.prefix_iff_eq_take.1 hpre, invPred_length, List.length_take, ← invPred_length w bits data res]
  exact List.take_eq_take_min.symm

/-- Each pixel is its residual plus the prediction from the pixels before it (R267). -/
theorem invPred_getElem? {res : List Word} {i : Nat} {r : Word} (hr : res[i]? = some r) :
    (invPred w bits data res)[i]? =
      some (addPixels r (predictNext w bits data ((invPred w bits data res).take i))) := by
  obtain ⟨hi, rfl⟩ := List.getElem?_eq_some_iff.1 hr
  have hlen : (invPred w bits data (res.take i)).length = i := by simp [hi.le]
  rw [← invPred_take, ← List.getElem?_take_of_succ, ← invPred_take, List.take_succ_eq_append_getElem hi]
  rw [invPred, invPredFrom_append, invPredFrom, invPredFrom, ← invPred]
  simp [hlen]

end

/-! ## Positions in raster order -/

theorem rasterIndex_div {w x : Nat} (y : Nat) (hx : x < w) : (y * w + x) / w = y := by
  rw [Nat.mul_comm, Nat.mul_add_div (Nat.zero_lt_of_lt hx), Nat.div_eq_of_lt hx, Nat.add_zero]

theorem getElem?_eq_pixAt {l : List Word} {i : Nat} (h : i < l.length) : l[i]? = some (pixAt l i) := by
  simp [pixAt, List.getD, h]

theorem pixAt_take {l : List Word} {i n : Nat} (h : i < n) : pixAt (l.take n) i = pixAt l i := by
  simp only [pixAt, List.getD_eq_getElem?_getD, List.getElem?_take_of_lt h]

/-! ## Predictions -/

theorem predMode_eq (data : List Word) (w bits x y : Nat) :
    predMode data w bits x y = (chG (pixAt data (tileIndex w bits x y))).toNat % 16 := by
  rw [predMode, modeBits_toNat, chG_toNat]
  omega

/-- The prediction of position `(x, y)`, whose neighbours all lie before it in raster order (R267). -/
theorem predictNext_take {w x y : Nat} {out : List Word} (bits : Nat) (data : List Word) (hx : x < w)
    (hin : y * w + x < out.length) :
    predictNext w bits data (out.take (y * w + x)) =
      if x = 0 ∧ y = 0 then opaqueBlack
      else if y = 0 then pixAt out (x - 1)
      else if x = 0 then pixAt out ((y - 1) * w)
      else predict (predMode data w bits x y) (pixAt out (y * w + x - 1)) (pixAt out ((y - 1) * w + x))
        (if x + 1 < w then pixAt out ((y - 1) * w + x + 1) else pixAt out (y * w))
        (pixAt out ((y - 1) * w + x - 1)) := by
  have hread : ∀ j, j < y * w + x → pixAt (out.take (y * w + x)) j = pixAt out j := fun _ => pixAt_take
  have hprev : y ≠ 0 → (y - 1) * w + w = y * w := fun hy => by
    rw [← Nat.succ_mul, Nat.succ_eq_add_one, Nat.sub_add_cancel (Nat.pos_of_ne_zero hy)]
  simp only [predictNext, List.length_take, Nat.min_eq_left hin.le, Nat.mul_add_mod_of_lt hx,
    rasterIndex_div y hx, Nat.lt_sub_iff_add_lt]
  split_ifs with hcorner hy hx0
  · rfl
  · exact hread _ (by omega)
  · have habove := hprev hy
    exact hread _ (by omega)
  all_goals
    have habove := hprev hy
    rw [hread _ (by omega), hread _ (by omega), hread _ (by omega), hread _ (by omega)]
    simp only [Nat.add_sub_assoc (Nat.pos_of_ne_zero hx0), Nat.add_assoc]

/-- Settles O36: the pixel at a position is its residual plus the prediction from the pixels before it, and those are
pixels of the result. -/
theorem inversePredictor : Obligations.InversePredictor := by
  intro s bits data
  refine ⟨_, rfl, invPred_length .., fun x y w hw hx hi => ?_⟩
  subst hw
  rw [pixAt_of_getElem? (invPred_getElem? _ bits data (getElem?_eq_pixAt hi)),
    predictNext_take bits data hx (by rwa [invPred_length]), predMode_eq, tileIndex_eq, subSize_eq]
  rfl

end Sys2Proof.Machine
end

section
/-! PROOFS, family 44_transforms: the inverse colour transforms (O37), the palette's expansion (O38) and the inverse
colour-indexing transform (O39) (spec/44_transforms.md R284 to R289). -/

namespace Sys2Proof.Machine

/-! ## Cross-colour and subtract-green -/

/-- The product is divided by 32 and rounded down (R285). -/
theorem colorDelta_eq_fdiv (t c : Byte) : colorDelta t c = Int.fdiv (t.toInt * c.toInt) 32 := by
  have hshift : colorDelta t c = (t.toInt * c.toInt) >>> (5 : Nat) := by
    unfold colorDelta
    cases t.toInt * c.toInt <;> rfl
  rw [hshift, Int.shiftRight_eq_div_pow, Int.fdiv_eq_ediv_of_nonneg _ (by decide)]
  rfl

section
variable (p e : Word)

theorem chA_xcolorPixel : chA (xcolorPixel p e) = chA p := chA_argb ..

theorem chG_xcolorPixel : chG (xcolorPixel p e) = chG p := chG_argb ..

/-- Red is corrected by the tile's green-to-red multiplier (R286). -/
theorem chR_xcolorPixel :
    ((chR (xcolorPixel p e)).toNat : Int) = (((chR p).toNat : Int) + colorDelta (chB e) (chG p)) % 256 := by
  rw [xcolorPixel, chR_argb, BitVec.toNat_ofInt]
  omega

/-- Blue is corrected by green and by the corrected red (R286). -/
theorem chB_xcolorPixel :
    ((chB (xcolorPixel p e)).toNat : Int) = (((chB p).toNat : Int) + colorDelta (chG e) (chG p)
      + colorDelta (chR e) (chR (xcolorPixel p e))) % 256 := by
  rw [xcolorPixel, chB_argb, chR_argb, BitVec.toNat_ofInt]
  omega

end

section
variable {pix : List Word} {i : Nat} (hi : i < pix.length)
include hi

theorem pixAt_map (f : Word → Word) : pixAt (pix.map f) i = f (pixAt pix i) :=
  pixAt_of_getElem? (by rw [List.getElem?_map, getElem?_eq_pixAt hi, Option.map_some])

theorem pixAt_invXcolor (w bits : Nat) (data : List Word) :
    pixAt (invXcolor w bits data pix) i =
      xcolorPixel (pixAt pix i) (pixAt data (tileIndex w bits (i % w) (i / w))) :=
  pixAt_of_getElem? (by simp [invXcolor, getElem?_eq_pixAt hi])

end

/-- Settles O37, pixel by pixel. -/
theorem inverseColour : Obligations.InverseColour := by
  intro s bits data
  refine ⟨_, _, rfl, rfl, invXcolor_length .., List.length_map .., ?_⟩
  rintro x y w rfl hx hi p q e q' hp hq hq' he
  have htile : tileIndex s.work.w bits ((y * s.work.w + x) % s.work.w) ((y * s.work.w + x) / s.work.w) =
      y / 2 ^ bits * ((s.work.w + 2 ^ bits - 1) / 2 ^ bits) + x / 2 ^ bits := by
    rw [Nat.mul_add_mod_of_lt hx, rasterIndex_div _ hx, tileIndex_eq, subSize_eq]
  rw [pixAt_invXcolor hi, htile, ← hp, ← he] at hq
  rw [pixAt_map hi, ← hp] at hq'
  subst hq hq'
  simp only [← colorDelta_eq_fdiv]
  exact ⟨chA_xcolorPixel p e, chG_xcolorPixel p e, chR_xcolorPixel p e, chB_xcolorPixel p e,
    by simp [subgreenPixel]⟩

/-! ## The palette's expansion (R288) -/

/-- The first entry is added to the one before the palette. -/
theorem paletteSums_zero (prev : Word) {pal : List Word} (h : 0 < pal.length) :
    (paletteSums prev pal).getD 0 0 = addPixels (pal.getD 0 0) prev := by
  cases pal with
  | nil => cases h
  | cons p ps => rfl

/-- Each later entry is added to the entry before it. -/
theorem paletteSums_succ (prev : Word) {pal : List Word} {i : Nat} (h : i + 1 < pal.length) :
    (paletteSums prev pal).getD (i + 1) 0 = addPixels (pal.getD (i + 1) 0) ((paletteSums prev pal).getD i 0) := by
  induction pal generalizing prev i with
  | nil => cases h
  | cons p ps ih =>
    have hi : i < ps.length := Nat.lt_of_succ_lt_succ h
    cases i with
    | zero => exact paletteSums_zero _ hi
    | succ i => exact ih _ hi

theorem addPixels_zero (p : Word) : addPixels p 0 = p := by
  have h0 : chA 0 = 0#8 ∧ chR 0 = 0#8 ∧ chG 0 = 0#8 ∧ chB 0 = 0#8 := by decide
  obtain ⟨ha, hr, hg, hb⟩ := h0
  simp only [addPixels, lanes2, ha, hr, hg, hb, BitVec.add_zero, argb_channels]

theorem paletteTable_getD_of_lt {pal : List Word} {i : Nat} (wb : Nat) (h : i < pal.length) :
    (paletteTable pal wb).getD i 0 = (paletteSums 0 pal).getD i 0 :=
  List.getD_append _ _ _ _ (by rwa [paletteSums_length])

/-- Past the palette's entries the table is transparent black. -/
theorem paletteTable_getD_of_le {pal : List Word} {i : Nat} (wb : Nat) (h : pal.length ≤ i) :
    (paletteTable pal wb).getD i 0 = 0 := by
  rw [paletteTable, List.getD_append_right _ _ _ _ (by rwa [paletteSums_length])]
  exact List.getElem?_getD_replicate_default_eq ..

theorem paletteTable_length {pal : List Word} {wb : Nat} (h : pal.length ≤ 2 ^ (8 / 2 ^ wb)) :
    (paletteTable pal wb).length = 2 ^ (8 / 2 ^ wb) := by
  simp [paletteTable, Nat.shiftRight_eq_div_pow, h]

/-- Settles O38: the entries are the running sums, then the padding. -/
theorem paletteExpansion : Obligations.PaletteExpansion := by
  intro s pal wb _ hne hfit
  refine ⟨_, rfl, paletteTable_length hfit, ?_, fun i hlow hi => ?_, fun i => paletteTable_getD_of_le wb⟩
  · rw [paletteTable_getD_of_lt wb hne, paletteSums_zero 0 hne, addPixels_zero]
  · obtain ⟨i, rfl⟩ := Nat.exists_eq_add_of_le' hlow
    rw [paletteTable_getD_of_lt wb hi, paletteSums_succ 0 hi, Nat.add_sub_cancel,
      paletteTable_getD_of_lt wb (Nat.lt_of_succ_lt hi)]

/-! ## Colour indexing (R289) -/

/-- Rows of one length, one after another, are the pixels in raster order. -/
theorem flatMap_rows_eq_map_range {α : Type} (w h : Nat) (f : Nat → Nat → α) :
    ((List.range h).flatMap fun y => (List.range w).map (f y)) =
      (List.range (h * w)).map fun i => f (i / w) (i % w) := by
  induction h with
  | zero => simp
  | succ h ih =>
    rw [List.range_succ, List.flatMap_append, ih, Nat.succ_mul, List.range_add, List.map_append, List.map_map]
    congr 1
    simp only [List.flatMap_singleton]
    refine List.map_congr_left fun x hx => ?_
    rw [Function.comp_apply, rasterIndex_div _ (List.mem_range.1 hx), Nat.mul_add_mod_of_lt (List.mem_range.1 hx)]

theorem packedIndex_eq (wb x : Nat) (g : Byte) :
    packedIndex wb x g = g.toNat / 2 ^ (8 / 2 ^ wb * (x % 2 ^ wb)) % 2 ^ (8 / 2 ^ wb) := by
  simp only [packedIndex, Nat.shiftRight_eq_div_pow]

/-- The palette entry a packed image names for the pixel at `(x, y)` (R289). -/
def indexedPixel (pw wb : Nat) (pal pix : List Word) (y x : Nat) : Word :=
  pixAt pal (packedIndex wb x (chG (pixAt pix (y * pw + x >>> wb))))

theorem invCindex_eq_map_range (pw w h wb : Nat) (pal pix : List Word) :
    invCindex pw w h wb pal pix =
      (List.range (h * w)).map fun i => indexedPixel pw wb pal pix (i / w) (i % w) :=
  flatMap_rows_eq_map_range w h (indexedPixel pw wb pal pix)

theorem pixAt_invCindex {w h x y : Nat} (pw wb : Nat) (pal pix : List Word) (hx : x < w) (hy : y < h) :
    pixAt (invCindex pw w h wb pal pix) (y * w + x) = indexedPixel pw wb pal pix y x := by
  have hi : y * w + x < h * w := Nat.mul_comm y w ▸ Nat.mul_add_lt_mul_of_lt_of_lt hy hx
  refine pixAt_of_getElem? ?_
  rw [invCindex_eq_map_range, List.getElem?_map, List.getElem?_range hi, Option.map_some, rasterIndex_div _ hx,
    Nat.mul_add_mod_of_lt hx]

/-- Settles O39, pixel by pixel. -/
theorem inverseColourIndexing : Obligations.InverseColourIndexing := by
  intro s w wb pal _
  refine ⟨_, rfl, (invCindex_length ..).trans (Nat.mul_comm ..), fun x y hx hy => ?_⟩
  rw [pixAt_invCindex _ wb pal _ hx hy, indexedPixel, packedIndex_eq, Nat.shiftRight_eq_div_pow]

end Sys2Proof.Machine
end

section
/-! PROOFS, family 44_transforms: the pipeline of inverse transforms (O40), and the inversion of an image's first rows
(O41) (spec/44_transforms.md R260, R261, R290). -/

namespace Sys2Proof.Machine

/-! ## The operations run InvertAll -/

/-- The inverse operation of a record is its step of InvertAll (R260). -/
theorem exec_inverseOp (t : Xform) (s : State) :
    exec (inverseOp t) s = .next { s with work := applyInverse s.work t } := by
  obtain ⟨kind, _, _, _⟩ := t
  cases kind <;> rfl

/-- Waiting inverse operations run one a step, in order (R260). -/
theorem run_inverseOps {xfs : List Xform} {rest : List Instr} {s : State} (hhost : s.host = [])
    (hops : s.ops = xfs.map inverseOp ++ rest) :
    Host.Core.run Sys2Proof.core xfs.length s =
      .next { s with ops := rest, work := xfs.foldl applyInverse s.work } := by
  induction xfs generalizing s with
  | nil => obtain rfl : s.ops = rest := hops; rfl
  | cons t ts ih =>
    have hstep : step s = .next { s with
        ops := ts.map inverseOp ++ rest, work := applyInverse s.work t } :=
      (step_op hhost hops).trans (exec_inverseOp t _)
    exact (run_succ_of_step (M := Sys2Proof.core) ts.length hstep).trans (ih hhost rfl)

/-! ## The image after each record -/

/-- The first record is inverted last (R260). -/
theorem invertAll_cons (t : Xform) (ts : List Xform) (k : WorkImg) :
    invertAll (t :: ts) k = applyInverse (invertAll ts k) t := by
  simp [invertAll]

theorem widthAfter_cons {w cw : Nat} {t : Xform} {ts : List Xform} :
    widthAfter w (t :: ts) = some cw ↔
      t.xsize = w ∧ widthAfter (if t.kind = .colourIndexing then subSize w t.bits else w) ts = some cw := by
  rw [widthAfter]
  split_ifs <;> simp_all

theorem applyInverse_w (k : WorkImg) (t : Xform) :
    (applyInverse k t).w = if t.kind = .colourIndexing then t.xsize else k.w := by
  unfold applyInverse
  cases t.kind <;> rfl

theorem applyInverse_h (k : WorkImg) (t : Xform) : (applyInverse k t).h = k.h := by
  unfold applyInverse
  cases t.kind <;> rfl

@[simp] theorem invertAll_h (xfs : List Xform) (k : WorkImg) : (invertAll xfs k).h = k.h := by
  induction xfs with
  | nil => rfl
  | cons t ts ih => rw [invertAll_cons, applyInverse_h, ih]

/-- Inverting the records undoes what they did to the width (R261). -/
theorem invertAll_w {w : Nat} {xfs : List Xform} {k : WorkImg} (h : widthAfter w xfs = some k.w) :
    (invertAll xfs k).w = w := by
  induction xfs generalizing w with
  | nil => exact (Option.some.inj h).symm
  | cons t ts ih =>
    obtain ⟨rfl, hts⟩ := widthAfter_cons.1 h
    rw [invertAll_cons, applyInverse_w, ih hts]
    split_ifs <;> rfl

/-- Settles O40: the operations run one a step, and the widths by induction on the records. -/
theorem pipelineInverts : Obligations.PipelineInverts := by
  intro s xfs rest w hhost hops
  refine ⟨?_, fun hw => ⟨invertAll_w hw, invertAll_h xfs s.work⟩⟩
  rw [← List.length_reverse, run_inverseOps hhost hops, invertAll]

/-! ## The first rows (R290) -/

/-- The first `y1` rows of an image in the pipeline, as a batch takes them (see `beginBatch_work`). -/
def WorkImg.firstRows (y1 : Nat) (k : WorkImg) : WorkImg := { k with h := y1, pix := k.pix.take (k.w * y1) }

/-- A batch inverts the first rows of the coded image (R313; log 23). -/
theorem beginBatch_work_eq_firstRows (y0 y1 h : Nat) (m : Img) (s : State) :
    (beginBatch y0 y1 m s).work = WorkImg.firstRows y1 { w := m.xs, h := h, pix := m.pix } := rfl

theorem invXcolor_take (w bits : Nat) (data pix : List Word) (n : Nat) :
    invXcolor w bits data (pix.take n) = (invXcolor w bits data pix).take n := by
  refine List.ext_getElem? fun i => ?_
  by_cases hi : i < n
  · simp [invXcolor, List.getElem?_take_of_lt hi]
  · simp [invXcolor, List.getElem?_take_eq_none (Nat.not_lt.1 hi)]

/-- Fewer rows of the result are its first rows. -/
theorem invCindex_take {h y1 : Nat} (pw w wb : Nat) (pal pix : List Word) (hy : y1 ≤ h) :
    (invCindex pw w h wb pal pix).take (w * y1) = invCindex pw w y1 wb pal pix := by
  rw [invCindex_eq_map_range, invCindex_eq_map_range, ← List.map_take, List.take_range, Nat.mul_comm w,
    Nat.min_eq_left (Nat.mul_le_mul_right w hy)]

/-- Rows are made from the packed rows at their places alone. -/
theorem invCindex_of_take (w wb h : Nat) (pal pix : List Word) :
    invCindex (subSize w wb) w h wb pal (pix.take (subSize w wb * h)) =
      invCindex (subSize w wb) w h wb pal pix := by
  refine List.flatMap_congr fun y hy => List.map_congr_left fun x hx => ?_
  have hread : y * subSize w wb + x >>> wb < subSize w wb * h := by
    rw [Nat.shiftRight_eq_div_pow, Nat.mul_comm y, Nat.mul_comm _ h]
    exact Nat.mul_add_lt_mul_of_lt_of_lt (List.mem_range.1 hy) (div_lt_subSize wb (List.mem_range.1 hx))
  rw [pixAt_take hread]

/-- Every inverse makes its first rows from the first rows it is given (R290). -/
theorem applyInverse_firstRows {k : WorkImg} {t : Xform} {y1 : Nat}
    (hw : t.kind = .colourIndexing → k.w = subSize t.xsize t.bits) (hy : y1 ≤ k.h) :
    applyInverse (k.firstRows y1) t = (applyInverse k t).firstRows y1 := by
  unfold applyInverse
  cases hk : t.kind with
  | predictor => simp only [WorkImg.firstRows, invPred_take]
  | crossColour => simp only [WorkImg.firstRows, invXcolor_take]
  | subtractGreen => simp only [WorkImg.firstRows, List.map_take]
  | colourIndexing => simp only [WorkImg.firstRows, invCindex_take _ _ _ _ _ hy, hw hk, invCindex_of_take]

/-- The first rows of the inverted image are the inverted first rows (R290). -/
theorem invertAll_firstRows {w y1 : Nat} {xfs : List Xform} {k : WorkImg} (hw : widthAfter w xfs = some k.w)
    (hy : y1 ≤ k.h) : invertAll xfs (k.firstRows y1) = (invertAll xfs k).firstRows y1 := by
  induction xfs generalizing w with
  | nil => rfl
  | cons t ts ih =>
    obtain ⟨rfl, hts⟩ := widthAfter_cons.1 hw
    rw [invertAll_cons, invertAll_cons, ih hts]
    refine applyInverse_firstRows (fun hk => ?_) (hy.trans_eq (invertAll_h ts k).symm)
    rw [invertAll_w hts, if_pos hk]

/-- Settles O41: the pipeline commutes with taking the first rows, whose length is that of `y1` rows as wide as the
first record. -/
theorem batchingEquivalence : Obligations.BatchingEquivalence := by
  intro xfs w cw h y1 pix hw _ hy
  have hrows := invertAll_firstRows (k := { w := cw, h := h, pix := pix }) hw hy
  rw [WorkImg.firstRows, WorkImg.firstRows, invertAll_w hw] at hrows
  exact congrArg WorkImg.pix hrows

end Sys2Proof.Machine
end

section
/-! PROOFS, family 45_sequencer: the emission of a batch of rows (O42) (spec/45_sequencer.md R312 to R314). -/

namespace Sys2Proof.Machine

/-! ## The SINK_SETs of a batch -/

/-- The SINK_SET of one position of a `w`-wide image. -/
def setOf (w : Nat) (pix : List Word) (p : Nat × Nat) : Instr := .sinkSet p.1 p.2 (pixAt pix (p.2 * w + p.1))

/-- The call that SINK_SET makes (see `step_setOf`). -/
def callOf (w : Nat) (pix : List Word) (p : Nat × Nat) : SinkPixel :=
  sinkPixel p.1 p.2 (pixAt pix (p.2 * w + p.1))

/-- The calls of rows `y0 .. y1 − 1`, in raster order (R313). -/
def batchCalls (w y0 y1 : Nat) (pix : List Word) : List SinkPixel :=
  ((raster w y1).drop (w * y0)).map (callOf w pix)

/-- The sink after more calls of setPixelRgba (R316). -/
def Sink.afterCalls (k : Sink) (qs : List SinkPixel) : Sink :=
  { k with sets := k.sets ++ qs, calls := k.calls + qs.length }

@[simp] theorem Sink.afterCalls_nil (k : Sink) : k.afterCalls [] = k := by simp [Sink.afterCalls]

theorem Sink.afterCalls_cons (k : Sink) (q : SinkPixel) (qs : List SinkPixel) :
    k.afterCalls (q :: qs) = (k.afterCalls [q]).afterCalls qs := by
  simp [Sink.afterCalls, Nat.add_assoc, Nat.add_comm 1]

theorem length_raster (w rows : Nat) : (raster w rows).length = w * rows := by
  simp [raster, Nat.mul_comm]

theorem rasterIndex_lt {w rows : Nat} {p : Nat × Nat} (h : p ∈ raster w rows) : p.2 * w + p.1 < w * rows := by
  obtain ⟨y, hy, hp⟩ := List.mem_flatMap.1 h
  obtain ⟨x, hx, rfl⟩ := List.mem_map.1 hp
  rw [Nat.mul_comm y, Nat.mul_comm w rows]
  exact Nat.mul_add_lt_mul_of_lt_of_lt (List.mem_range.1 hy) (List.mem_range.1 hx)

/-- A batch's operations set the positions of the raster order from its first row on (R313; spec/20_memory.md R71). -/
theorem rowSets_eq_map_drop_raster {y0 y1 : Nat} (w : Nat) (pix : List Word) (h : y0 ≤ y1) :
    rowSets w y0 y1 pix = ((raster w y1).drop (w * y0)).map (setOf w pix) := by
  obtain ⟨k, rfl⟩ := Nat.exists_eq_add_of_le h
  rw [raster_add, List.drop_left' (length_raster w y0)]
  simp [rowSets, setOf, List.map_flatMap, Function.comp_def]

/-! ## Runs -/

/-- A run of `j + k` steps is a run of `k` from where `j` lead. -/
theorem run_add_of_run {M : Host.Core} {j : Nat} {s t : M.State} (k : Nat) (h : M.run j s = .next t) :
    M.run (j + k) s = M.run k t := by
  induction j generalizing s with
  | zero => cases h; rw [Nat.zero_add]
  | succ j ih =>
    rw [Nat.add_right_comm]
    simp only [Host.Core.run] at h ⊢
    split at h
    next hstep => exact ih h
    all_goals cases h

/-- Some steps lead from `s` to `t`. -/
def Reaches (s t : State) : Prop := ∃ k, Host.Core.run Sys2Proof.core k s = .next t

section
variable {s t u : State}

theorem Reaches.of_step (h : step s = .next t) : Reaches s t := ⟨1, run_succ_of_step (M := Sys2Proof.core) 0 h⟩

theorem Reaches.trans (h : Reaches s t) (h' : Reaches t u) : Reaches s u := by
  obtain ⟨j, hj⟩ := h
  obtain ⟨k, hk⟩ := h'
  exact ⟨j + k, (run_add_of_run k hj).trans hk⟩

theorem step_setOf {w : Nat} {pix : List Word} {p : Nat × Nat} {rest : List Instr} (hhost : s.host = [])
    (hops : s.ops = setOf w pix p :: rest) :
    step s = .next { s with ops := rest, sink := s.sink.afterCalls [callOf w pix p] } :=
  step_op hhost hops

/-- Waiting SINK_SETs run one a step, in order (R316). -/
theorem run_setsOf {w : Nat} {pix : List Word} {ps : List (Nat × Nat)} {rest : List Instr} (hhost : s.host = [])
    (hops : s.ops = ps.map (setOf w pix) ++ rest) :
    Host.Core.run Sys2Proof.core ps.length s =
      .next { s with ops := rest, sink := s.sink.afterCalls (ps.map (callOf w pix)) } := by
  induction ps generalizing s with
  | nil => obtain rfl : s.ops = rest := hops; rw [List.map_nil, Sink.afterCalls_nil]; rfl
  | cons p ps ih =>
    rw [List.map_cons, Sink.afterCalls_cons]
    exact (run_succ_of_step (M := Sys2Proof.core) ps.length (step_setOf hhost hops)).trans (ih hhost rfl)

end

/-! ## A batch -/

section
variable {s : State} {m : Img} {y0 y1 : Nat}

/-- Once the inverse transforms have run, the SINK_SETs of the rows are issued (R313). -/
theorem step_inverting (hhost : s.host = []) (hops : s.ops = []) (hrun : s.phase.running = true)
    (hemit : s.emit = .inverting y0 y1) :
    step s = .next { s with ops := rowSets s.hdr.w y0 y1 s.work.pix, emit := .sinking y1 } :=
  (step_sequence hhost hops hrun).trans (sequence_next.2 (.inl ⟨y0, y1, hemit, by rw [hops, List.nil_append]⟩))

/-- Once the rows are set, they count as emitted (R313). -/
theorem step_sinking (hhost : s.host = []) (hops : s.ops = []) (hrun : s.phase.running = true)
    (hemit : s.emit = .sinking y1) : step s = .next { s with rowsEmitted := y1, emit := .off } :=
  (step_sequence hhost hops hrun).trans (sequence_next.2 (.inr (.inl ⟨y1, hemit, rfl⟩)))

/-- 16 complete rows begin a batch in the pixel loop, the rows left begin one in Finish (R312, R314; log 30). -/
theorem step_batchDue (hhost : s.host = []) (hops : s.ops = []) (hemit : s.emit = .off)
    (hrun : s.phase.running = true) (hn : s.nested = none) (h0 : s.img0 = some m) (hl : m.level0 = true)
    (hdue : (s.stage = .pixel ∧ y1 = s.rowsEmitted + 16 ∧ y1 ≤ s.rowsDone) ∨
      (s.stage = .finish ∧ s.rowsEmitted < s.hdr.h ∧ y1 = s.hdr.h)) :
    step s = .next (beginBatch s.rowsEmitted y1 m s) := by
  obtain ⟨hst, rfl, hrows⟩ | ⟨hst, hleft, rfl⟩ := hdue
  · rw [step_pixel hhost hops hemit hrun hst]
    exact pixelMove_next.2 ⟨m, (curImg_of_level0 hn).trans h0, by simp [hl, rowBatch, hrows]⟩
  · exact (step_finish hhost hops hemit hrun hst).trans (finishMove_next.2 (.inl ⟨hleft, m, h0, rfl⟩))

/-- A batch that has begun inverts its image, sets its rows, and counts them as emitted (R313). -/
theorem reaches_batchEmitted (hhost : s.host = []) (hops : s.ops = []) (hemit : s.emit = .off)
    (hrun : s.phase.running = true) (hy : y0 ≤ y1) {k : WorkImg}
    (hk : k = invertAll s.xfs (beginBatch y0 y1 m s).work) :
    Reaches (beginBatch y0 y1 m s)
      { s with rowsEmitted := y1, work := k, sink := s.sink.afterCalls (batchCalls s.hdr.w y0 y1 k.pix) } := by
  have hissued : (beginBatch y0 y1 m s).ops = inverseOps s.xfs ++ [] := by simp [beginBatch, hops]
  obtain ⟨hinverts, -⟩ := pipelineInverts (beginBatch y0 y1 m s) s.xfs [] 0 hhost hissued
  have hinverted : Reaches (beginBatch y0 y1 m s) { s with ops := [], work := k, emit := .inverting y0 y1 } :=
    ⟨_, hk ▸ hinverts⟩
  have hset : Reaches { s with ops := rowSets s.hdr.w y0 y1 k.pix, work := k, emit := .sinking y1 }
      { s with
        ops := [], work := k, emit := .sinking y1, sink := s.sink.afterCalls (batchCalls s.hdr.w y0 y1 k.pix) } :=
    ⟨_, run_setsOf hhost (by rw [List.append_nil]; exact rowSets_eq_map_drop_raster _ _ hy)⟩
  simpa only [hops, hemit] using (hinverted.trans (.of_step (step_inverting hhost rfl hrun rfl))).trans
    (hset.trans (.of_step (step_sinking hhost rfl hrun rfl)))

/-- What a batch inverts are the first rows of the whole image inverted, whatever pixels are still to come (R290,
R313; log 23). -/
theorem invertAll_beginBatch {w h : Nat} {later : List Word} (hw : widthAfter w s.xfs = some m.xs) (hle : y1 ≤ h)
    (hrows : m.xs * y1 ≤ m.pix.length) :
    invertAll s.xfs (beginBatch y0 y1 m s).work =
      (invertAll s.xfs { w := m.xs, h := h, pix := m.pix ++ later }).firstRows y1 := by
  rw [← invertAll_firstRows hw hle, beginBatch_work_eq_firstRows _ _ h, WorkImg.firstRows, WorkImg.firstRows,
    List.take_append_of_le_length hrows]

/-- A call in the first rows reads a pixel of the first rows. -/
theorem callOf_firstRows {k : WorkImg} {p : Nat × Nat} (h : p ∈ raster k.w y1) :
    callOf k.w (k.firstRows y1).pix p = callOf k.w k.pix p := by
  rw [callOf, callOf, WorkImg.firstRows, pixAt_take (rasterIndex_lt h)]

end

/-- Settles O42: the steps of a batch from the one that begins it, and the pixels it reads by R290. -/
theorem batchEmitsRows : Obligations.BatchEmitsRows := by
  rintro s m _ y1 _ hhost hops hemit hrun hn h0 hl - hw rfl hdue hle hrows ⟨later, rfl⟩ -
  have hy : s.rowsEmitted ≤ y1 := by omega
  have hbegins := Reaches.of_step (step_batchDue hhost hops hemit hrun hn h0 hl hdue)
  have hwork := invertAll_beginBatch (y0 := s.rowsEmitted) (later := later) hw hle hrows
  obtain ⟨k, hk⟩ := hbegins.trans (reaches_batchEmitted hhost hops hemit hrun hy hwork.symm)
  refine ⟨k, _, hk, rfl, rfl, rfl, congrArg _ (List.map_congr_left fun p hp => ?_)⟩
  have hwidth := invertAll_w (k := { w := m.xs, h := s.hdr.h, pix := m.pix ++ later }) hw
  rw [← hwidth] at hp ⊢
  exact callOf_firstRows (List.mem_of_mem_drop hp)

end Sys2Proof.Machine
end

section
/-! PROOFS, family 45_sequencer: START (O45), the capacities (O16), and the sink calls with what the host reads of them
(O43) (spec/45_sequencer.md R310, R311, R315, R316, R320). -/

namespace Sys2Proof.Machine

/-! ## The three cases of START -/

section
variable {s : State}

theorem exec_hostStart_of_busy (hbusy : isBusy s = true) : exec .hostStart s = .next s := by
  simp [exec, execHostStart, hbusy]

theorem exec_hostStart_of_idle (hidle : isBusy s = false) :
    exec .hostStart s =
      if s.params.lenMax < s.inLen.toNat then .refused .inputTooLong else .next (startJob s) := by
  simp [exec, execHostStart, hidle]

/-- START over `LEN_MAX` is refused (R310, R320). -/
theorem exec_hostStart_of_over (hidle : isBusy s = false) (hover : s.params.lenMax < s.inLen.toNat) :
    exec .hostStart s = .refused .inputTooLong :=
  (exec_hostStart_of_idle hidle).trans (if_pos hover)

theorem exec_hostStart_of_fits (hidle : isBusy s = false) (hfits : s.inLen.toNat ≤ s.params.lenMax) :
    exec .hostStart s = .next (startJob s) :=
  (exec_hostStart_of_idle hidle).trans (if_neg hfits.not_gt)

end

/-- Settles O45: the three cases of START, and the new job's state is made of the fields that survive alone. -/
theorem hostStart : Obligations.HostStart := by
  intro s
  refine ⟨exec_hostStart_of_busy, exec_hostStart_of_over, fun hidle hfits => ?_, fun u hs hu => ?_⟩
  · have hstream : isEos (startJob s) = false := (isEos_eq_false_iff _).2 (Nat.zero_le _)
    exact ⟨startJob s, exec_hostStart_of_fits hidle hfits, rfl, rfl, rfl, hstream, rfl, rfl, rfl, rfl, rfl, rfl, rfl,
      rfl, rfl, rfl, rfl, rfl, rfl, rfl, rfl, rfl, rfl⟩
  · rw [exec_hostStart_of_idle hs, exec_hostStart_of_idle]
    · rfl
    · exact hu

/-! ## Capacities -/

/-- A sub-image of more than `PIX_MAX` pixels is refused (R320; log 5). -/
theorem openNested_of_over {s : State} {u : SubUse} {xs ys : Nat} (h : s.params.pixMax < xs * ys) :
    openNested u xs ys s = .refused .imageTooLarge := by
  simp [openNested, tooLarge, h]

/-- Settles O16: each element reaches the place where its context would be created, and it does not fit. -/
theorem capacityRefusals : Obligations.CapacityRefusals := by
  intro s b n
  dsimp only
  simp only [← subSize_eq]
  refine ⟨exec_hostStart_of_over, fun hst hover => ?_, fun hst hseen hover => ?_, fun hst hseen hover => ?_,
    fun hst hseen hover => ?_, fun m hst h0 hover => (exec_metaOn b hst h0).trans (openNested_of_over hover)⟩
  · simp [exec, execXformEnd, whenStage, hst, tooLarge, hover]
  · rw [exec_xformPred, beginXform_of_unseen (k := .predictor) _ hst hseen]
    exact openNested_of_over hover
  · rw [exec_xformXcolor, beginXform_of_unseen (k := .crossColour) _ hst hseen]
    exact openNested_of_over hover
  · rw [exec_xformCindex, beginXform_of_unseen (k := .colourIndexing) _ hst hseen]
    exact openNested_of_over (hover.trans_eq (Nat.mul_one _).symm)

/-! ## The host's view of the sink -/

/-- A position set once holds the pixel set there (R316). -/
theorem Sink.last_of_mem {k : Sink} {q : SinkPixel} (hq : q ∈ k.sets) (hnodup : k.positions.Nodup) :
    k.last q.x q.y = some q := by
  have hfound : (k.last q.x q.y).isSome = true := by
    simpa [Sink.last] using ⟨q, hq, rfl, rfl⟩
  obtain ⟨r, hr⟩ := Option.isSome_iff_exists.1 hfound
  have hsame : (r.x, r.y) = (q.x, q.y) := by simpa using List.find?_some hr
  have hmem : r ∈ k.sets := List.mem_reverse.1 (List.mem_of_find?_eq_some hr)
  rw [hr, List.inj_on_of_nodup_map hnodup hmem hq hsame]

theorem hostSinkPixel_of_mem {s : State} {q : SinkPixel} (hq : q ∈ s.sink.sets) (hwhole : s.sink.whole = true)
    (hidle : isBusy s = false) (hnodup : s.sink.positions.Nodup) :
    hostSinkPixel s q.x q.y = argb q.a q.r q.g q.b := by
  simp [hostSinkPixel, hwhole, hidle, Sink.last_of_mem hq hnodup]

/-- Four bytes a pixel, the pixels in row order (spec/20_memory.md R65). -/
theorem hostSinkByte_eq (s : State) {W x : Nat} (y : Nat) {c : Nat} (hx : x < W) (hc : c < 4) :
    hostSinkByte s W (4 * (y * W + x) + c) =
      [chR, chG, chB, chA].getD c chA (hostSinkPixel s x y) := by
  have hpixel : (4 * (y * W + x) + c) / 4 = y * W + x := by omega
  have hbyte : (4 * (y * W + x) + c) % 4 = c := by omega
  rw [hostSinkByte, hpixel, hbyte, Nat.mul_add_mod_of_lt hx, rasterIndex_div y hx]
  interval_cases c <;> rfl

/-- Settles O43: the two calls by what they append to the sink, the host's reads by the pixel found last. -/
theorem sinkCalls : Obligations.SinkCalls := by
  intro s w h x y W p
  refine ⟨⟨_, rfl, rfl, rfl⟩, ⟨_, rfl, rfl, rfl, rfl⟩,
    fun q hq hwhole hidle hnodup => hostSinkPixel_of_mem hq hwhole hidle hnodup, fun hx => ?_⟩
  exact ⟨hostSinkByte_eq s y hx (c := 0) (by decide), hostSinkByte_eq s y hx (c := 1) (by decide),
    hostSinkByte_eq s y hx (c := 2) (by decide), hostSinkByte_eq s y hx (c := 3) (by decide)⟩

end Sys2Proof.Machine
end

section
/-! PROOFS, family 60_exceptions: a failure ends the job at once and nothing of it goes on (O11), and each kind is
raised only by the elements that check for it (O12) (spec/60_exceptions.md R340 to R348). -/

namespace Sys2Proof.Machine

/-! ## A failed job -/

/-- Settles O11: Abort's effect, and that the core waits in the state it leaves. -/
theorem abortSequence : Obligations.AbortSequence := by
  refine ⟨fun k s => ⟨abortState k s, rfl, endsJob_abort_advance k 0 s, ?_⟩, ?_⟩
  · obtain ⟨-, -, hwaits, -⟩ := stepRunsTheInstruction { abortState k s with host := [] }
    exact hwaits rfl rfl (.inr (.inr rfl))
  · decide

/-! ## The kind of a failure -/

/-- `t` is `s` after a failure of a kind that `i` checks for, the cursor moved on to where it was raised. -/
def RaisedBy (i : Instr) (s t : State) : Prop :=
  ∃ k n, mayRaise k i = true ∧ t = abortState k (advance n s)

/-- A failure ends the job where the cursor then stands (R340). -/
theorem RaisedBy.endsJob {i : Instr} {s t : State} (h : RaisedBy i s t) :
    ∃ k, t.status = statusFailed k ∧ mayRaise k i = true ∧ endsJob k (t.pos - s.pos) s (.next t) := by
  obtain ⟨k, n, hk, rfl⟩ := h
  have hpos : (abortState k (advance n s)).pos - s.pos = n := Nat.add_sub_cancel_left ..
  exact ⟨k, rfl, hk, by rw [hpos]; exact endsJob_abort_advance k n s⟩

section
variable {i : Instr} {s t : State} {m : Img} {n : Nat}

theorem RaisedBy.of_abort {k : Failure} (hk : mayRaise k i = true) (h : abort k (advance n s) = .next t) :
    RaisedBy i s t := ⟨k, n, hk, abort_next.1 h⟩

/-- HDR checks its own fields and the end of the stream, and a header accepted goes on to the transform list (R342,
R347). -/
theorem execHdr_raises {magic : BitVec 8} {w h : BitVec 14} {a : BitVec 1} {v : BitVec 3} (ht : t.phase = .error)
    (hx : execHdr magic w h a v s = .next t) : RaisedBy (.hdr magic w h a v) s t := by
  simp only [execHdr, whenStage_next] at hx
  obtain ⟨-, hx⟩ := hx
  split_ifs at hx
  · exact .of_abort rfl hx
  · exact ⟨_, 40, rfl, abort_next.1 hx⟩
  · exact ⟨_, 40, rfl, abort_next.1 hx⟩
  · exact ⟨_, 40, rfl, abort_next.1 hx⟩
  · cases hx; cases ht

/-! ## What raises no failure -/

theorem execXformEnd_runs (hx : execXformEnd s = .next t) : t.phase ≠ .error := by
  simp only [execXformEnd, whenStage_next] at hx
  obtain ⟨-, hx⟩ := hx
  split_ifs at hx
  cases hx
  nofun

theorem execMetaOff_runs (hx : execMetaOff s = .next t) : t.phase ≠ .error := by
  simp only [execMetaOff, whenStage_next] at hx
  obtain ⟨-, hx⟩ := hx
  split at hx
  · cases hx
    nofun
  · cases hx

/-- An internal operation leaves PHASE as it is. -/
theorem OperationDoes.keeps_phase (h : OperationDoes i s t) : t.phase = s.phase := by
  cases h with
  | inserts => simp
  | _ => rfl

variable (hs : s.phase ≠ .error)
include hs

theorem afterCache_runs (m : Img) : (afterCache m s).phase ≠ .error := by
  rw [afterCache_eq]; dsimp only; split_ifs <;> simp [hs]

theorem pushCode_runs (L : Code) (m : Img) : (pushCode L m s).phase ≠ .error := by
  rw [pushCode_eq]; dsimp only; split_ifs <;> simp [hs]

theorem execCcacheOff_runs (hx : execCcacheOff s = .next t) : t.phase ≠ .error := by
  simp only [execCcacheOff, whenStage_next, withImg_next] at hx
  obtain ⟨-, m, -, hx⟩ := hx
  cases hx
  exact afterCache_runs (s := advance 1 s) hs _

theorem execMetaOn_runs {b : BitVec 3} (hx : execMetaOn b s = .next t) : t.phase ≠ .error := by
  simp only [execMetaOn, whenStage_next] at hx
  obtain ⟨-, hx⟩ := hx
  split at hx
  · obtain ⟨-, rfl⟩ := openNested_next.1 hx
    exact hs
  · cases hx

theorem execMaxsymOff_runs (hx : execMaxsymOff s = .next t) : t.phase ≠ .error := by
  obtain ⟨cl, m, -, -, hx⟩ := atMaxsym_next.1 hx
  cases hx
  exact hs

/-! ## The shared operations -/

variable (ht : t.phase = .error)
include ht

/-- The end of a code checks for the end of the stream and for an invalid code (R345, R347). -/
theorem RaisedBy.of_finishCode {L : Code} (heos : mayRaise .unexpectedEndOfStream i = true)
    (hcode : mayRaise .invalidHuffmanCode i = true) (h : finishCode L m (advance n s) = .next t) :
    RaisedBy i s t := by
  obtain ⟨-, rfl⟩ | ⟨-, -, rfl⟩ | ⟨-, -, rfl⟩ := finishCode_next.1 h
  · exact ⟨_, n, heos, rfl⟩
  · exact ⟨_, n, hcode, rfl⟩
  · exact absurd ht (pushCode_runs (s := advance n s) hs L m)

theorem RaisedBy.of_simpleCode {xs : List Nat} (heos : mayRaise .unexpectedEndOfStream i = true)
    (hcode : mayRaise .invalidHuffmanCode i = true) (h : simpleCode xs n s = .next t) : RaisedBy i s t := by
  obtain ⟨-, m, -, h⟩ := simpleCode_next.1 h
  exact .of_finishCode hs ht heos hcode h

theorem RaisedBy.of_nextToken {cl : Code} {lens : List Nat} {left prev : Nat}
    (heos : mayRaise .unexpectedEndOfStream i = true) (hcode : mayRaise .invalidHuffmanCode i = true)
    (h : nextToken cl lens left prev m (advance n s) = .next t) : RaisedBy i s t := by
  obtain ⟨-, -, rfl⟩ | ⟨-, h⟩ := nextToken_next.1 h
  · exact absurd ht hs
  · exact .of_finishCode hs ht heos hcode h

/-- A run of lengths checks for the end of the alphabet too (R345). -/
theorem RaisedBy.of_runToken {tok eb rep : Nat} {len : Nat → Nat} (heos : mayRaise .unexpectedEndOfStream i = true)
    (hcode : mayRaise .invalidHuffmanCode i = true) (h : runToken tok eb rep len s = .next t) : RaisedBy i s t := by
  obtain ⟨cl, lens, left, prev, m, -, -, ⟨-, rfl⟩ | ⟨-, h⟩⟩ := runToken_next.1 h
  · exact ⟨_, _, hcode, rfl⟩
  · exact .of_nextToken hs ht heos hcode h

/-- A transform element checks its type (R343); opening a sub-image raises nothing. -/
theorem RaisedBy.of_beginXform {k : XKind} {u : SubUse} {xs ys : Nat} {body : State → Out}
    (hdup : mayRaise .invalidTransform i = true)
    (hbody : body { s with seen := markSeen s.seen k } =
      openNested u xs ys (advance n { s with seen := markSeen s.seen k }))
    (h : beginXform k body s = .next t) : RaisedBy i s t := by
  obtain ⟨-, ⟨-, rfl⟩ | ⟨-, h⟩⟩ := beginXform_next.1 h
  · exact ⟨_, 3, hdup, rfl⟩
  · rw [hbody, openNested_next] at h
    obtain ⟨-, rfl⟩ := h
    exact absurd ht hs

/-- The end of a pixel element checks for the end of the stream (R347). -/
theorem RaisedBy.of_finishElement (heos : mayRaise .unexpectedEndOfStream i = true)
    (h : finishElement m (advance n s) = .next t) : RaisedBy i s t := by
  obtain ⟨-, rfl⟩ | ⟨-, -, rfl⟩ | ⟨-, -, rfl⟩ := finishElement_next.1 h
  · exact ⟨_, n, heos, rfl⟩
  · exact absurd ht (by simp [hs])
  · exact absurd ht (by simp [hs])

/-! ## The elements -/

theorem execXformPred_raises {b : BitVec 3} (hx : execXformPred b s = .next t) : RaisedBy (.xformPred b) s t := by
  unfold execXformPred at hx
  exact .of_beginXform hs ht rfl rfl hx

theorem execXformXcolor_raises {b : BitVec 3} (hx : execXformXcolor b s = .next t) :
    RaisedBy (.xformXcolor b) s t := by
  unfold execXformXcolor at hx
  exact .of_beginXform hs ht rfl rfl hx

theorem execXformCindex_raises {k : BitVec 8} (hx : execXformCindex k s = .next t) :
    RaisedBy (.xformCindex k) s t := by
  unfold execXformCindex at hx
  exact .of_beginXform hs ht rfl rfl hx

theorem execXformSubgreen_raises (hx : execXformSubgreen s = .next t) : RaisedBy .xformSubgreen s t := by
  obtain ⟨-, ⟨-, rfl⟩ | ⟨-, hx⟩⟩ := beginXform_next.1 hx
  · exact ⟨_, 3, rfl, rfl⟩
  · cases hx
    exact absurd ht hs

/-- CCACHE_ON checks its size: 0 and those from 12 on fail the job (R344). -/
theorem execCcacheOn_raises {c : BitVec 4} (hx : execCcacheOn c s = .next t) : RaisedBy (.ccacheOn c) s t := by
  simp only [execCcacheOn, whenStage_next, withImg_next] at hx
  obtain ⟨-, m, -, hx⟩ := hx
  split_ifs at hx with hc
  · refine .of_abort ?_ hx
    have hbad : c = 0 ∨ 12 ≤ c.toNat := hc.imp (fun h0 => BitVec.eq_of_toNat_eq (Nat.lt_one_iff.1 h0)) id
    simpa [mayRaise] using hbad
  · cases hx
    exact absurd ht (afterCache_runs (s := advance 5 s) hs _)

theorem execHcodeNormal_raises {k : BitVec 4} {lens : List (BitVec 3)} (hx : execHcodeNormal k lens s = .next t) :
    RaisedBy (.hcodeNormal k lens) s t := by
  simp only [execHcodeNormal, whenStage_next, withImg_next] at hx
  obtain ⟨-, m, -, hx⟩ := hx
  split_ifs at hx
  · cases hx
    exact absurd ht hs
  · exact .of_abort rfl hx

theorem execMaxsymOn_raises {k : BitVec 3} {e : Nat} (hx : execMaxsymOn k e s = .next t) :
    RaisedBy (.maxsymOn k e) s t := by
  obtain ⟨cl, m, -, -, hx⟩ := atMaxsym_next.1 hx
  split_ifs at hx
  · exact .of_abort rfl hx
  · cases hx
    exact absurd ht hs

theorem execClLit_raises {tok : BitVec 4} (hx : execClLit tok s = .next t) : RaisedBy (.clLit tok) s t := by
  obtain ⟨cl, lens, left, prev, m, -, -, hx⟩ := atToken_next.1 hx
  exact .of_nextToken hs ht rfl rfl hx

theorem execPxLiteral_raises {g r b a : BitVec 8} (hx : execPxLiteral g r b a s = .next t) :
    RaisedBy (.pxLiteral g r b a) s t := by
  obtain ⟨-, m, cs, -, -, -, hx⟩ := atPixel_next.1 hx
  exact .of_finishElement hs ht rfl hx

/-- A backward reference checks the end of the stream, then the copy's bounds (R346, R347). -/
theorem execPxBackref_raises {g le d de : Nat} (hx : execPxBackref g le d de s = .next t) :
    RaisedBy (.pxBackref g le d de) s t := by
  obtain ⟨-, m, cs, -, -, -, hx⟩ := atPixel_next.1 hx
  dsimp only at hx
  split_ifs at hx
  · exact .of_abort rfl hx
  · exact .of_abort rfl hx
  · exact .of_finishElement hs ht rfl hx

theorem execPxCache_raises {g : Nat} (hx : execPxCache g s = .next t) : RaisedBy (.pxCache g) s t := by
  obtain ⟨-, m, cs, -, -, -, hx⟩ := atPixel_next.1 hx
  exact .of_finishElement hs ht rfl hx

/-- A stream element that fails the job raises a kind it checks for. -/
theorem exec_element_raises (hi : isElement i = true) (hx : exec i s = .next t) : RaisedBy i s t := by
  cases i with
  | hdr => exact execHdr_raises ht hx
  | xformEnd => exact absurd ht (execXformEnd_runs hx)
  | xformPred => exact execXformPred_raises hs ht hx
  | xformXcolor => exact execXformXcolor_raises hs ht hx
  | xformCindex => exact execXformCindex_raises hs ht hx
  | xformSubgreen => exact execXformSubgreen_raises hs ht hx
  | ccacheOff => exact absurd ht (execCcacheOff_runs hs hx)
  | ccacheOn => exact execCcacheOn_raises hs ht hx
  | metaOff => exact absurd ht (execMetaOff_runs hx)
  | metaOn => exact absurd ht (execMetaOn_runs hs hx)
  | hcodeS1b1 | hcodeS1b8 | hcodeS2b1 | hcodeS2b8 => exact .of_simpleCode hs ht rfl rfl hx
  | hcodeNormal => exact execHcodeNormal_raises hs ht hx
  | maxsymOff => exact absurd ht (execMaxsymOff_runs hs hx)
  | maxsymOn => exact execMaxsymOn_raises hs ht hx
  | clLit => exact execClLit_raises hs ht hx
  | clRep16 | clZero17 | clZero18 => exact .of_runToken hs ht rfl rfl hx
  | pxLiteral => exact execPxLiteral_raises hs ht hx
  | pxBackref => exact execPxBackref_raises hs ht hx
  | pxCache => exact execPxCache_raises hs ht hx
  | _ => cases hi

/-- An instruction that fails the job raises a kind it checks for: an internal operation keeps PHASE, and START begins a
job or does nothing. -/
theorem exec_raises (hx : exec i s = .next t) : RaisedBy i s t := by
  by_cases hel : isElement i = true
  · exact exec_element_raises hs ht hel hx
  · by_cases hstart : i = .hostStart
    · subst hstart
      obtain rfl | ⟨-, rfl⟩ := execHostStart_does hx
      · exact absurd ht hs
      · cases ht
    · have hop : isOperation i = true := by simp [isOperation, hel, hstart]
      exact absurd ((exec_operation hop hx).keeps_phase.symm.trans ht) hs

end

/-- Settles O12: the kind by the instruction's own checks, and what survives because Abort writes every other field. -/
theorem failuresComeFromTheirChecks : Obligations.FailuresComeFromTheirChecks :=
  ⟨fun _ _ _ hx hs ht => (exec_raises hs ht hx).endsJob, fun _ _ _ => rfl⟩

end Sys2Proof.Machine
end

section
/-! PROOFS, family 70_reset_and_hazards: what a hardware reset leaves (O47), and the invariants after it (O49)
(spec/70_reset_and_hazards.md R370; spec/10_state.md R30). -/

namespace Sys2Proof.Machine

/-! ## The registers -/

@[simp] theorem readReg_reset (r : Reg) : readReg State.reset r = 0 := by cases r <;> rfl

/-- What a reset at any time keeps is in no register. -/
@[simp] theorem readReg_hardReset (s : State) (r : Reg) : readReg (hardReset s) r = readReg State.reset r := by
  cases r <;> rfl

/-! ## A reset at any time -/

theorem step_of_reset {s : State} {rest : List HostAct} (hhost : s.host = .reset :: rest) :
    step s = .next (hardReset { s with host := rest }) := step_host hhost

/-- Settles O47: a reset at any time is the reset state but for `IN`, the sink and what no register shows. -/
theorem resetState : Obligations.ResetState := by
  refine ⟨readReg_reset, rfl, rfl, rfl, fun s rest hhost => ?_⟩
  exact ⟨_, step_of_reset hhost, by simp, rfl, rfl, rfl, fun _ => rfl, rfl, rfl⟩

/-! ## The invariants -/

theorem inv_reset : Inv State.reset :=
  have hstatus : statusOk State.reset = true := (statusOk_iff _).2 (.inl ⟨rfl, rfl⟩)
  have hregisters : registersOk State.reset = true := (registersOk_iff _).2 ⟨by decide, by decide⟩
  ⟨Memory.reset_wf, hstatus, hregisters, rfl, rfl, rfl⟩

/-- Settles O49: no job runs, so no sink order or coded width is asked for, and no context holds a cache. -/
theorem invariantsHoldAtReset : Obligations.InvariantsHoldAtReset := by
  have hsink : sinkOk State.reset = true := rfl
  have hwidths : widthsOk State.reset = true := (widthsOk_iff _).2 fun ⟨hrunning, _⟩ => nomatch hrunning
  have hcaches : cachesOk State.reset = true := (cachesOk_iff _).2 ⟨nofun, nofun⟩
  exact ⟨inv_reset, hsink, hwidths, hcaches⟩

end Sys2Proof.Machine
end
